-- ==== Sys2Proof/Word.lean ====
section
/-! DEFINITION. The byte of the SPI link and the widths of the counts. -/

namespace Sys2Proof

/-- One byte on MOSI or MISO (R171). -/
abbrev Byte := BitVec 8

/-- The number of values of a 32-bit count: station time and the elapsed-seconds count (section 6.1, R161). -/
abbrev twoTo32 : Nat := 4294967296

end Sys2Proof
end

