-- ==== Sys2Proof/Config.lean ====
section
/-! DEFINITION. The sizes and limits the part fixes. The spec leaves no result of a command open, so there is
no free value here. -/

namespace Sys2Proof.Config

/-- The top of station time (section 6.1). -/
abbrev topOfTime : Nat := 4294967295
/-- Booking slots (R1). -/
abbrev bookingSlots : Nat := 128
/-- Link slots (R48). -/
abbrev linkSlots : Nat := 32
/-- Places of the Announcement Queue (R63). -/
abbrev queuePlaces : Nat := 16
/-- Ids an episode history holds at most (R58). -/
abbrev historyPlaces : Nat := 8
/-- Entries the Channel Map holds at most (R25). -/
abbrev mapPlaces : Nat := 256
/-- Handles that LIST and LIST_LINKS return at most (R19, R57). -/
abbrev listPlaces : Nat := 16
/-- Items that READ_PLAN returns at most (R125). -/
abbrev planPlaces : Nat := 6
/-- The hardware limit of streams on one tuner (R39). -/
abbrev streamPlaces : Nat := 3
/-- Passes abandoned at most between two installs (R117). -/
abbrev abandonLimit : Nat := 3
/-- Length of one follow extension, in seconds (R145). -/
abbrev extensionSeconds : Nat := 300
/-- Extension a booking may use in all, in seconds (R145). -/
abbrev extensionLimit : Nat := 3600
/-- Crystal counts of a nominal second (section 9.2). -/
abbrev crystalCounts : Nat := 32768
/-- Crystal counts of one sixty-fourth of a nominal second (section 9.2). -/
abbrev sixtyFourth : Nat := 512
/-- The largest payload a frame may declare (R173). -/
abbrev payloadLimit : Nat := 96

end Sys2Proof.Config
end

