-- ==== Sys2Proof/Syntax.lean ====
section
/-! DEFINITION. The commands of the part, one constructor for each row of spec/opcode_table.json, and the
requests a frame may carry. A request row is the COMPLETION EVENT of that request (R174). Its operands are those of
the request in process, which the frame-end event handed on (R173); they are typed by `Request`. -/

namespace Sys2Proof

/-- A handle: a slot number and the tag of one occupancy (section 6.4). Booking and link handles have one form. -/
structure Handle where
  slot : Nat
  tag : Nat
deriving DecidableEq, Repr

/-- One broadcast of a programme (section 6.3). -/
structure Showing where
  channel : Nat
  event : Option Nat
  start : Nat
  duration : Nat
deriving DecidableEq, Repr

/-- One value for each attention cause, in the order of section 12.1. -/
structure PerCause (α : Type) where
  startWaiting : α
  clash : α
  ended : α
  yield : α
  clock : α
  linkNote : α
deriving DecidableEq, Repr

/-- The payload of ADD_BOOKING (section 12.3). A field whose presence bit is clear is `none` (R193). -/
structure AddBookingFields where
  primary : Showing
  alternative : Option Showing
  episode : Option Nat
  prePad : Nat
  postPad : Nat
  priority : Nat
  follow : Bool
deriving DecidableEq, Repr

/-- The payload of AMEND_BOOKING after its handle (section 12.3). -/
structure AmendBookingFields where
  primary : Showing
  alternative : Option Showing
  prePad : Nat
  postPad : Nat
  priority : Nat
  follow : Bool
deriving DecidableEq, Repr

/-- The payload of LIST (section 12.3): the state set is the byte as sent, the origin its code. -/
structure ListFields where
  states : Byte
  origin : Option Nat
  link : Option Handle
  start : Nat
deriving DecidableEq, Repr

/-- The link fields that ADD_LINK and AMEND_LINK both carry (R49), enumerated ones by their codes. The channel
preference is the number sent, 65,535 for ANY. -/
structure LinkFields where
  preference : Nat
  policy : Nat
  priority : Nat
  prePad : Nat
  postPad : Nat
  follow : Bool
  keepAhead : Nat
deriving DecidableEq, Repr

/-- The payload of ANNOUNCE (section 12.7), the running status by its code. -/
structure AnnounceFields where
  channel : Nat
  event : Option Nat
  start : Nat
  duration : Nat
  series : Option Nat
  episode : Option Nat
  isRepeat : Bool
  premiere : Bool
  status : Nat
deriving DecidableEq, Repr

/-- The payload of SET_POLICY (section 12.3), default band and planning mode by their codes. -/
structure PolicyFields where
  w1 : Int
  w2 : Int
  w3 : Int
  w4 : Int
  streamLimit : Nat
  wakeLead : Nat
  yieldLead : Nat
  confirmTimeout : Nat
  defaultBand : Nat
  mode : Nat
deriving DecidableEq, Repr

/-- A request as a frame of the right length spells it (section 12.3): every field has the value sent, checked by
no range. Enumerated fields are their codes. -/
inductive Request where
  | addBooking (f : AddBookingFields)
  | amendBooking (h : Handle) (f : AmendBookingFields)
  | withdraw (h : Handle)
  | readBooking (h : Handle)
  | list (f : ListFields)
  | find (channel event : Nat)
  | setChannel (channel mux band : Nat)
  | removeChannel (channel : Nat)
  | readChannel (channel : Nat)
  | setBand (band eligible : Nat)
  | hold (tuner channel kind : Nat)
  | release (tuner : Nat)
  | readHolds
  | addLink (series : Nat) (status : Option Nat) (f : LinkFields)
  | amendLink (h : Handle) (f : LinkFields)
  | setLinkStatus (h : Handle) (status : Nat)
  | removeLink (h : Handle) (disposal : Nat)
  | readLink (h : Handle)
  | listLinks (statuses : Byte) (noted : Bool) (start : Nat)
  | announce (f : AnnounceFields)
  | planNow
  | readPlanner
  | readPlan (tuner fromTime : Nat)
  | confirm (h : Handle)
  | decline (h : Handle)
  | stop (h : Handle)
  | setTime (seconds sixtyFourths force : Nat)
  | setTrim (trim : Int)
  | readClock
  | setPolicy (f : PolicyFields)
  | readPolicy
  | readCauses
  | setRouting (r : PerCause Nat)
  | ackClash (h : Handle)
  | clearAll
deriving DecidableEq, Repr

/-- The commands, one for each row of spec/opcode_table.json, in the table's order. -/
inductive Instr where
  /-- VSTBY rises (R21). -/
  | powerOnReset
  /-- PORTRESET rises (R180). -/
  | portReset
  /-- HOSTAWAKE takes the given level, high for true (R151). -/
  | hostawakeChange (level : Bool)
  /-- SS falls (R171). -/
  | transactionStart
  /-- SS rises, after the given whole bytes and the bits of a byte left incomplete were clocked in (R171, R173). -/
  | frameEnd (mosi : List Byte) (spare : List Bool)
  | addBooking
  | amendBooking
  | withdraw
  | readBooking
  | list
  | find
  | setChannel
  | removeChannel
  | readChannel
  | setBand
  | hold
  | release
  | readHolds
  | addLink
  | amendLink
  | setLinkStatus
  | removeLinkKeep
  | removeLinkWithdraw
  | readLink
  | listLinks
  | announce
  /-- The Series Matcher takes the head announcement (R67). -/
  | matcherEvent
  | planNow
  | readPlanner
  | readPlan
  /-- The planner event that begins a pass (R104). -/
  | step0
  /-- One booking step of a pass (R106). -/
  | bookingStep
  /-- The planner event that abandons a pass (R118). -/
  | passAbandon
  /-- The planner event that installs a pass (R120). -/
  | install
  | confirm
  | decline
  | stop
  /-- The open event of the booking in a slot (R134). -/
  | openEvent (slot : Nat)
  /-- The expiry of the confirm timer of the booking in a slot (R138). -/
  | confirmExpiry (slot : Nat)
  /-- The close event of the booking in a slot (R144). -/
  | closeEvent (slot : Nat)
  /-- The lapse event of the booking in a slot (R132). -/
  | lapseEvent (slot : Nat)
  /-- The divider reaches N and the tick is taken (R159). -/
  | tick
  | setTime
  | setTrim
  | readClock
  | setPolicy
  | readPolicy
  | readCauses
  | setRouting
  | ackClash
  | clearAll
  /-- One count of the 32,768 Hz crystal (R158). -/
  | crystalCount
  /-- PORTRESET falls (R180). -/
  | portresetFall
deriving DecidableEq, Repr

end Sys2Proof
end

