-- ==== Sys2Proof/WellFormed.lean ====
section
/-! DEFINITION. What a command and a request may be: a slot number names a slot, the bits left over at a frame end are
fewer than a byte, and each field of a request lies within the width of its bytes on the link (section 12.1). -/

namespace Sys2Proof

/-- A value of one byte on the link. -/
def fitsByte (n : Nat) : Bool := n < 256
/-- A value of two bytes on the link. -/
def fitsTwoBytes (n : Nat) : Bool := n < 65536
/-- A value of four bytes on the link. -/
def fitsFourBytes (n : Nat) : Bool := n < 4294967296
/-- A signed value of two bytes on the link. -/
def fitsSignedTwoBytes (z : Int) : Bool := -32768 ≤ z && z ≤ 32767

/-- An optional field fits when it is absent or its value does. -/
def optionFits (p : Nat → Bool) (o : Option Nat) : Bool := o.all p

/-- A handle is two bytes (section 12.1). -/
def Handle.wellFormed (h : Handle) : Bool := fitsByte h.slot && fitsByte h.tag

/-- A showing is thirteen bytes (section 12.1). -/
def Showing.wellFormed (v : Showing) : Bool :=
  fitsTwoBytes v.channel && optionFits fitsTwoBytes v.event && fitsFourBytes v.start && fitsFourBytes v.duration

def AddBookingFields.wellFormed (f : AddBookingFields) : Bool :=
  f.primary.wellFormed && f.alternative.all Showing.wellFormed && optionFits fitsFourBytes f.episode &&
    fitsTwoBytes f.prePad && fitsTwoBytes f.postPad && fitsByte f.priority

def AmendBookingFields.wellFormed (f : AmendBookingFields) : Bool :=
  f.primary.wellFormed && f.alternative.all Showing.wellFormed && fitsTwoBytes f.prePad && fitsTwoBytes f.postPad &&
    fitsByte f.priority

def ListFields.wellFormed (f : ListFields) : Bool :=
  optionFits fitsByte f.origin && f.link.all Handle.wellFormed && fitsByte f.start

def LinkFields.wellFormed (f : LinkFields) : Bool :=
  fitsTwoBytes f.preference && fitsByte f.policy && fitsByte f.priority && fitsTwoBytes f.prePad &&
    fitsTwoBytes f.postPad && fitsByte f.keepAhead

def AnnounceFields.wellFormed (f : AnnounceFields) : Bool :=
  fitsTwoBytes f.channel && optionFits fitsTwoBytes f.event && fitsFourBytes f.start && fitsFourBytes f.duration &&
    optionFits fitsFourBytes f.series && optionFits fitsFourBytes f.episode && fitsByte f.status

def PolicyFields.wellFormed (f : PolicyFields) : Bool :=
  fitsSignedTwoBytes f.w1 && fitsSignedTwoBytes f.w2 && fitsSignedTwoBytes f.w3 && fitsSignedTwoBytes f.w4 &&
    fitsByte f.streamLimit && fitsTwoBytes f.wakeLead && fitsTwoBytes f.yieldLead && fitsTwoBytes f.confirmTimeout &&
    fitsByte f.defaultBand && fitsByte f.mode

/-- A request that some frame spells: every field within the width of its bytes. -/
def Request.wellFormed : Request → Bool
  | .addBooking f => f.wellFormed
  | .amendBooking h f => h.wellFormed && f.wellFormed
  | .withdraw h => h.wellFormed
  | .readBooking h => h.wellFormed
  | .list f => f.wellFormed
  | .find channel event => fitsTwoBytes channel && fitsTwoBytes event
  | .setChannel channel mux band => fitsTwoBytes channel && fitsTwoBytes mux && fitsByte band
  | .removeChannel channel => fitsTwoBytes channel
  | .readChannel channel => fitsTwoBytes channel
  | .setBand band eligible => fitsByte band && fitsByte eligible
  | .hold tuner channel kind => fitsByte tuner && fitsTwoBytes channel && fitsByte kind
  | .release tuner => fitsByte tuner
  | .readHolds => true
  | .addLink series status f => fitsFourBytes series && optionFits fitsByte status && f.wellFormed
  | .amendLink h f => h.wellFormed && f.wellFormed
  | .setLinkStatus h status => h.wellFormed && fitsByte status
  | .removeLink h disposal => h.wellFormed && fitsByte disposal
  | .readLink h => h.wellFormed
  | .listLinks _ _ start => fitsByte start
  | .announce f => f.wellFormed
  | .planNow => true
  | .readPlanner => true
  | .readPlan tuner fromTime => fitsByte tuner && fitsFourBytes fromTime
  | .confirm h => h.wellFormed
  | .decline h => h.wellFormed
  | .stop h => h.wellFormed
  | .setTime seconds sixtyFourths force => fitsFourBytes seconds && fitsByte sixtyFourths && fitsByte force
  | .setTrim trim => fitsSignedTwoBytes trim
  | .readClock => true
  | .setPolicy f => f.wellFormed
  | .readPolicy => true
  | .readCauses => true
  | .setRouting r =>
    fitsByte r.startWaiting && fitsByte r.clash && fitsByte r.ended && fitsByte r.yield && fitsByte r.clock &&
      fitsByte r.linkNote
  | .ackClash h => h.wellFormed
  | .clearAll => true

/-- A command the part can take: a Timer event names a booking slot (R1), and a frame leaves fewer than eight bits over
(R171). -/
def Instr.wellFormed : Instr → Bool
  | .openEvent slot => slot < Config.bookingSlots
  | .confirmExpiry slot => slot < Config.bookingSlots
  | .closeEvent slot => slot < Config.bookingSlots
  | .lapseEvent slot => slot < Config.bookingSlots
  | .frameEnd _ spare => spare.length < 8
  | .powerOnReset | .portReset | .hostawakeChange _ | .transactionStart | .addBooking | .amendBooking | .withdraw
  | .readBooking | .list | .find | .setChannel | .removeChannel | .readChannel | .setBand | .hold | .release
  | .readHolds | .addLink | .amendLink | .setLinkStatus | .removeLinkKeep | .removeLinkWithdraw | .readLink
  | .listLinks | .announce | .matcherEvent | .planNow | .readPlanner | .readPlan | .step0 | .bookingStep
  | .passAbandon | .install | .confirm | .decline | .stop | .tick | .setTime | .setTrim | .readClock | .setPolicy
  | .readPolicy | .readCauses | .setRouting | .ackClash | .clearAll | .crystalCount | .portresetFall => true

end Sys2Proof
end

