-- ==== Sys2Proof/Decode.lean ====
section
/-! DEFINITION. The request frames of chapter 12: their kinds and lengths (section 12.3), the decoding of a payload into
a request, and after it the encoder. Multi-byte fields are most significant byte first (section 12.1). The opcode table
gives its rows no bits, so no word spells a command. -/

namespace Sys2Proof

/-- The command a table word spells: none, since no row of the table has bits. -/
def decodeTableWord (_nbits _w : Nat) : Option Instr := none

/-! ### Fields -/

/-- The value of the byte at an offset of a payload. -/
def oneAt (p : List Byte) (i : Nat) : Nat := (p.getD i 0).toNat
/-- The value of the two bytes at an offset. -/
def twoAt (p : List Byte) (i : Nat) : Nat := 256 * oneAt p i + oneAt p (i + 1)
/-- The value of the four bytes at an offset. -/
def fourAt (p : List Byte) (i : Nat) : Nat := 65536 * twoAt p i + twoAt p (i + 2)
/-- The two's complement value of the two bytes at an offset. -/
def signedTwoAt (p : List Byte) (i : Nat) : Int :=
  if twoAt p i < 32768 then (twoAt p i : Int) else (twoAt p i : Int) - 65536
/-- A bit of the byte at an offset. -/
def flagAt (p : List Byte) (i bit : Nat) : Bool := (p.getD i 0).getLsbD bit
/-- A field with its presence bit: absent, whatever its bytes, when the bit is clear (R193). -/
def whenSet {α : Type} (present : Bool) (a : α) : Option α := if present then some a else none

/-- A value as one byte. -/
def oneByte (n : Nat) : List Byte := [BitVec.ofNat 8 n]
/-- A value as two bytes, most significant first. -/
def twoBytes (n : Nat) : List Byte := [BitVec.ofNat 8 (n / 256), BitVec.ofNat 8 n]
/-- A value as four bytes, most significant first. -/
def fourBytes (n : Nat) : List Byte := twoBytes (n / 65536) ++ twoBytes n
/-- A signed value as two bytes of two's complement. -/
def signedTwoBytes (z : Int) : List Byte := twoBytes (z % 65536).toNat
/-- A signed value as four bytes of two's complement. -/
def signedFourBytes (z : Int) : List Byte := fourBytes (z % 4294967296).toNat
/-- A flag byte from its bits, bit 0 first; the bits after the last given are reserved and 0. -/
def flagByte (bits : List Bool) : List Byte := [BitVec.ofNat 8 (bits.foldr (fun b n => b.toNat + 2 * n) 0)]

/-- A handle: slot, then tag (section 12.1). -/
def handleAt (p : List Byte) (i : Nat) : Handle := ⟨oneAt p i, oneAt p (i + 1)⟩
def handleBytes (h : Handle) : List Byte := oneByte h.slot ++ oneByte h.tag

/-- A showing's thirteen bytes (section 12.1): its event id is ignored while its presence bit is clear (R193). -/
def showingAt (p : List Byte) (i : Nat) : Showing :=
  { channel := twoAt p (i + 1), event := whenSet (flagAt p i 0) (twoAt p (i + 3)), start := fourAt p (i + 5),
    duration := fourAt p (i + 9) }
/-- A showing's bytes; an absent event id is sent as zeros (R193). -/
def showingBytes (v : Showing) : List Byte :=
  flagByte [v.event.isSome] ++ twoBytes v.channel ++ twoBytes (v.event.getD 0) ++ fourBytes v.start ++
    fourBytes v.duration
/-- A showing that may be absent: zeros when it is (R193). -/
def optionalShowingBytes : Option Showing → List Byte
  | none => List.replicate 13 0
  | some v => showingBytes v

/-! ### Kinds and lengths -/

/-- The kind of a NOP frame (section 12.3). -/
def nopKind : Byte := 0x00#8

/-- The kinds the part knows, NOP apart, each with the payload length it requires (section 12.3). -/
def kindLengths : List (Nat × Nat) :=
  [(0x10, 36), (0x11, 34), (0x12, 2), (0x13, 2), (0x14, 6), (0x15, 4), (0x20, 5), (0x21, 2), (0x22, 2), (0x23, 2),
   (0x28, 4), (0x29, 1), (0x2A, 0), (0x30, 15), (0x31, 12), (0x32, 3), (0x33, 3), (0x34, 2), (0x35, 3), (0x38, 22)] ++
  [(0x40, 0), (0x41, 0), (0x42, 5), (0x48, 2), (0x49, 2), (0x4A, 2), (0x50, 6), (0x51, 2), (0x52, 0), (0x58, 17),
   (0x59, 0), (0x60, 0), (0x61, 6), (0x62, 2), (0x63, 0)]

/-- The payload length a kind requires; none for a kind the part does not know. -/
def kindLength (kind : Byte) : Option Nat := kindLengths.lookup kind.toNat

/-- The kind byte of a request (section 12.3). -/
def kindOf : Request → Byte
  | .addBooking _ => 0x10#8
  | .amendBooking _ _ => 0x11#8
  | .withdraw _ => 0x12#8
  | .readBooking _ => 0x13#8
  | .list _ => 0x14#8
  | .find _ _ => 0x15#8
  | .setChannel _ _ _ => 0x20#8
  | .removeChannel _ => 0x21#8
  | .readChannel _ => 0x22#8
  | .setBand _ _ => 0x23#8
  | .hold _ _ _ => 0x28#8
  | .release _ => 0x29#8
  | .readHolds => 0x2A#8
  | .addLink _ _ _ => 0x30#8
  | .amendLink _ _ => 0x31#8
  | .setLinkStatus _ _ => 0x32#8
  | .removeLink _ _ => 0x33#8
  | .readLink _ => 0x34#8
  | .listLinks _ _ _ => 0x35#8
  | .announce _ => 0x38#8
  | .planNow => 0x40#8
  | .readPlanner => 0x41#8
  | .readPlan _ _ => 0x42#8
  | .confirm _ => 0x48#8
  | .decline _ => 0x49#8
  | .stop _ => 0x4A#8
  | .setTime _ _ _ => 0x50#8
  | .setTrim _ => 0x51#8
  | .readClock => 0x52#8
  | .setPolicy _ => 0x58#8
  | .readPolicy => 0x59#8
  | .readCauses => 0x60#8
  | .setRouting _ => 0x61#8
  | .ackClash _ => 0x62#8
  | .clearAll => 0x63#8

/-! ### Payloads to requests -/

/-- The link fields that ADD_LINK and AMEND_LINK lay out alike from the priority on; channel preference and policy stand
at `i`, the rest at `j`. -/
def linkFieldsAt (p : List Byte) (flags i j : Nat) : LinkFields :=
  { preference := twoAt p i, policy := oneAt p (i + 2), priority := oneAt p j, prePad := twoAt p (j + 1),
    postPad := twoAt p (j + 3), follow := flagAt p flags 0, keepAhead := oneAt p (j + 5) }

def addBookingAt (p : List Byte) : AddBookingFields :=
  { primary := showingAt p 1, alternative := whenSet (flagAt p 0 0) (showingAt p 14),
    episode := whenSet (flagAt p 0 1) (fourAt p 27), prePad := twoAt p 31, postPad := twoAt p 33,
    priority := oneAt p 35, follow := flagAt p 0 2 }

def amendBookingAt (p : List Byte) : AmendBookingFields :=
  { primary := showingAt p 3, alternative := whenSet (flagAt p 2 0) (showingAt p 16), prePad := twoAt p 29,
    postPad := twoAt p 31, priority := oneAt p 33, follow := flagAt p 2 2 }

def listAt (p : List Byte) : ListFields :=
  { states := p.getD 0 0, origin := whenSet (flagAt p 1 0) (oneAt p 2),
    link := whenSet (flagAt p 1 1) (handleAt p 3), start := oneAt p 5 }

def announceAt (p : List Byte) : AnnounceFields :=
  { channel := twoAt p 1, event := whenSet (flagAt p 0 0) (twoAt p 3), start := fourAt p 5, duration := fourAt p 9,
    series := whenSet (flagAt p 0 1) (fourAt p 13), episode := whenSet (flagAt p 0 2) (fourAt p 17),
    isRepeat := flagAt p 0 3, premiere := flagAt p 0 4, status := oneAt p 21 }

def policyAt (p : List Byte) : PolicyFields :=
  { w1 := signedTwoAt p 0, w2 := signedTwoAt p 2, w3 := signedTwoAt p 4, w4 := signedTwoAt p 6,
    streamLimit := oneAt p 8, wakeLead := twoAt p 9, yieldLead := twoAt p 11, confirmTimeout := twoAt p 13,
    defaultBand := oneAt p 15, mode := oneAt p 16 }

def routingAt (p : List Byte) : PerCause Nat :=
  { startWaiting := oneAt p 0, clash := oneAt p 1, ended := oneAt p 2, yield := oneAt p 3, clock := oneAt p 4,
    linkNote := oneAt p 5 }

/-- The request that a kind and its whole payload spell (section 12.3, R193); none for a kind that names no request. -/
def decodeRequest (kind : Byte) (p : List Byte) : Option Request :=
  match kind.toNat with
  | 0x10 => some (.addBooking (addBookingAt p))
  | 0x11 => some (.amendBooking (handleAt p 0) (amendBookingAt p))
  | 0x12 => some (.withdraw (handleAt p 0))
  | 0x13 => some (.readBooking (handleAt p 0))
  | 0x14 => some (.list (listAt p))
  | 0x15 => some (.find (twoAt p 0) (twoAt p 2))
  | 0x20 => some (.setChannel (twoAt p 0) (twoAt p 2) (oneAt p 4))
  | 0x21 => some (.removeChannel (twoAt p 0))
  | 0x22 => some (.readChannel (twoAt p 0))
  | 0x23 => some (.setBand (oneAt p 0) (oneAt p 1))
  | 0x28 => some (.hold (oneAt p 0) (twoAt p 1) (oneAt p 3))
  | 0x29 => some (.release (oneAt p 0))
  | 0x2A => some .readHolds
  | 0x30 => some (.addLink (fourAt p 1) (whenSet (flagAt p 0 1) (oneAt p 8)) (linkFieldsAt p 0 5 9))
  | 0x31 => some (.amendLink (handleAt p 0) (linkFieldsAt p 2 3 6))
  | 0x32 => some (.setLinkStatus (handleAt p 0) (oneAt p 2))
  | 0x33 => some (.removeLink (handleAt p 0) (oneAt p 2))
  | 0x34 => some (.readLink (handleAt p 0))
  | 0x35 => some (.listLinks (p.getD 0 0) (flagAt p 1 0) (oneAt p 2))
  | 0x38 => some (.announce (announceAt p))
  | 0x40 => some .planNow
  | 0x41 => some .readPlanner
  | 0x42 => some (.readPlan (oneAt p 0) (fourAt p 1))
  | 0x48 => some (.confirm (handleAt p 0))
  | 0x49 => some (.decline (handleAt p 0))
  | 0x4A => some (.stop (handleAt p 0))
  | 0x50 => some (.setTime (fourAt p 0) (oneAt p 4) (oneAt p 5))
  | 0x51 => some (.setTrim (signedTwoAt p 0))
  | 0x52 => some .readClock
  | 0x58 => some (.setPolicy (policyAt p))
  | 0x59 => some .readPolicy
  | 0x60 => some .readCauses
  | 0x61 => some (.setRouting (routingAt p))
  | 0x62 => some (.ackClash (handleAt p 0))
  | 0x63 => some .clearAll
  | _ => none

/-! ### Requests to payloads -/

/-- The bytes from the priority of a link request to its keep-ahead. -/
def linkTailBytes (f : LinkFields) : List Byte :=
  oneByte f.priority ++ twoBytes f.prePad ++ twoBytes f.postPad ++ oneByte f.keepAhead

/-- The payload of a request, absent fields as zeros (section 12.3). -/
def encodeRequest : Request → List Byte
  | .addBooking f =>
    flagByte [f.alternative.isSome, f.episode.isSome, f.follow] ++ showingBytes f.primary ++
      optionalShowingBytes f.alternative ++ fourBytes (f.episode.getD 0) ++ twoBytes f.prePad ++ twoBytes f.postPad ++
      oneByte f.priority
  | .amendBooking h f =>
    handleBytes h ++ flagByte [f.alternative.isSome, false, f.follow] ++ showingBytes f.primary ++
      optionalShowingBytes f.alternative ++ twoBytes f.prePad ++ twoBytes f.postPad ++ oneByte f.priority
  | .withdraw h | .readBooking h | .confirm h | .decline h | .stop h | .ackClash h | .readLink h => handleBytes h
  | .list f =>
    [f.states] ++ flagByte [f.origin.isSome, f.link.isSome] ++ oneByte (f.origin.getD 0) ++
      handleBytes (f.link.getD ⟨0, 0⟩) ++ oneByte f.start
  | .find channel event => twoBytes channel ++ twoBytes event
  | .setChannel channel mux band => twoBytes channel ++ twoBytes mux ++ oneByte band
  | .removeChannel channel | .readChannel channel => twoBytes channel
  | .setBand band eligible => oneByte band ++ oneByte eligible
  | .hold tuner channel kind => oneByte tuner ++ twoBytes channel ++ oneByte kind
  | .release tuner => oneByte tuner
  | .addLink series status f =>
    flagByte [f.follow, status.isSome] ++ fourBytes series ++ twoBytes f.preference ++ oneByte f.policy ++
      oneByte (status.getD 0) ++ linkTailBytes f
  | .amendLink h f =>
    handleBytes h ++ flagByte [f.follow] ++ twoBytes f.preference ++ oneByte f.policy ++ linkTailBytes f
  | .setLinkStatus h status => handleBytes h ++ oneByte status
  | .removeLink h disposal => handleBytes h ++ oneByte disposal
  | .listLinks statuses noted start => [statuses] ++ flagByte [noted] ++ oneByte start
  | .announce f =>
    flagByte [f.event.isSome, f.series.isSome, f.episode.isSome, f.isRepeat, f.premiere] ++ twoBytes f.channel ++
      twoBytes (f.event.getD 0) ++ fourBytes f.start ++ fourBytes f.duration ++ fourBytes (f.series.getD 0) ++
      fourBytes (f.episode.getD 0) ++ oneByte f.status
  | .readPlan tuner fromTime => oneByte tuner ++ fourBytes fromTime
  | .setTime seconds sixtyFourths force => fourBytes seconds ++ oneByte sixtyFourths ++ oneByte force
  | .setTrim trim => signedTwoBytes trim
  | .setPolicy f =>
    signedTwoBytes f.w1 ++ signedTwoBytes f.w2 ++ signedTwoBytes f.w3 ++ signedTwoBytes f.w4 ++
      oneByte f.streamLimit ++ twoBytes f.wakeLead ++ twoBytes f.yieldLead ++ twoBytes f.confirmTimeout ++
      oneByte f.defaultBand ++ oneByte f.mode
  | .setRouting r =>
    oneByte r.startWaiting ++ oneByte r.clash ++ oneByte r.ended ++ oneByte r.yield ++ oneByte r.clock ++
      oneByte r.linkNote
  | .readHolds | .planNow | .readPlanner | .readClock | .readPolicy | .readCauses | .clearAll => []

/-- The frame that carries a request: kind, payload length, payload (R173). -/
def requestFrame (r : Request) : List Byte :=
  kindOf r :: BitVec.ofNat 8 (encodeRequest r).length :: encodeRequest r

end Sys2Proof
end

