-- ==== Sys2Proof/Machine/State.lean ====
section
/-! DEFINITION. The state of the part, block by block, and its value after power-on reset. Optional fields carry the
presence the rules give them; levels the rules derive are held in `Outputs` and derived again by Machine/Flags.lean. -/

namespace Sys2Proof.Machine

/-! ### Names of the spec's enumerations -/

/-- The two tuners (section 6.5). -/
inductive Tuner where
  | tuner0 | tuner1
deriving DecidableEq, Repr

/-- What a tuner is locked to (section 6.5). -/
inductive MuxKey where
  | mux (id : Nat)
  | channelOnly (channel : Nat)
deriving DecidableEq, Repr

inductive Origin where
  | manual | series
deriving DecidableEq, Repr

inductive RunningStatus where
  | unknown | running | notRunning
deriving DecidableEq, Repr

/-- The seven booking states (section 1.6). -/
inductive BookingState where
  | scheduled | starting | recording | completed | aborted | failed | missed
deriving DecidableEq, Repr

inductive FinishReason where
  | stopped | withdrawn | declined | noConfirm
deriving DecidableEq, Repr

inductive ShowingUsed where
  | primary | alternative
deriving DecidableEq, Repr

inductive LinkPolicy where
  | newOnly | all
deriving DecidableEq, Repr

inductive LinkStatus where
  | active | dormant
deriving DecidableEq, Repr

inductive HoldKind where
  | firm | soft
deriving DecidableEq, Repr

inductive DropReason where
  | noDrop | released | preempted | portReset
deriving DecidableEq, Repr

inductive PlanningMode where
  | auto | deferred
deriving DecidableEq, Repr

inductive Routing where
  | off | attn | attnWake
deriving DecidableEq, Repr

/-- The reply codes (R176). -/
inductive ReplyCode where
  | ok | adjusted | unknownKind | badLength | badValue | staleHandle | notFound | tableFull | duplicate | queueFull
  | wrongState | tooLate | tunerBusy | notEligible | noRoute
deriving DecidableEq, Repr

/-- One value for each tuner. -/
structure PerTuner (α : Type) where
  on0 : α
  on1 : α
deriving DecidableEq, Repr

/-! ### Booking Table (chapter 1), with the Window Timer's state of each booking (R129, R133) -/

/-- The outcome of a booking a pass placed (section 7.6). -/
inductive PlacedKind where
  | placed | trimmed | onAlternative
deriving DecidableEq, Repr

/-- The tuner and window of a placed booking. -/
structure Placement where
  kind : PlacedKind
  tuner : Tuner
  openAt : Nat
  closeAt : Nat
deriving DecidableEq, Repr

/-- The outcome of a booking a pass evaluated (R115, R116). -/
inductive Verdict where
  | placed (p : Placement)
  | clashed
  | lapsed
  | unreachable
deriving DecidableEq, Repr

/-- What an install writes whole (R120): outcome, version stamp, merit and merit-clamped indicator. -/
structure Evaluation where
  verdict : Verdict
  stamp : Nat
  merit : Int
  clamped : Bool
deriving DecidableEq, Repr

/-- The running placement (R129). -/
structure RunningPlacement where
  tuner : Tuner
  key : MuxKey
  used : ShowingUsed
  actualOpen : Nat
  postAllowance : Nat
  closePoint : Nat
deriving DecidableEq, Repr

/-- The confirm timer of a STARTING booking (R129). -/
structure ConfirmTimer where
  entry : Nat
  timeout : Nat
deriving DecidableEq, Repr

/-- A booking record (section 1.1). `installed` is absent for UNPLANNED. The last two fields are the Window Timer's: the
confirm timer, and whether the close point has been reached, which stays so until the close event (R133). -/
structure Booking where
  origin : Origin
  link : Option Handle
  isRepeat : Bool
  primary : Showing
  alternative : Option Showing
  episode : Option Nat
  prePad : Nat
  postPad : Nat
  priority : Nat
  follow : Bool
  runningStatus : RunningStatus
  extensionUsed : Nat
  version : Nat
  state : BookingState
  finishReason : Option FinishReason
  installed : Option Evaluation
  heldBack : Bool
  lateStart : Bool
  clashMark : Bool
  running : Option RunningPlacement
  startStamp : Option Nat
  endStamp : Option Nat
  confirmTimer : Option ConfirmTimer
  closeReached : Bool
deriving DecidableEq, Repr

/-- A booking slot (R1, R2). The tag of an occupied slot is its last tag. -/
structure BookingSlot where
  lastTag : Nat
  booking : Option Booking
deriving DecidableEq, Repr

/-! ### Channel Map (chapter 2) -/

/-- An eligible tuner set (R26). -/
structure EligibleSet where
  has0 : Bool
  has1 : Bool
deriving DecidableEq, Repr

structure ChannelEntry where
  channel : Nat
  mux : Nat
  band : Fin 4
deriving DecidableEq, Repr

/-- The four band entries (R26). -/
structure Bands where
  band0 : EligibleSet
  band1 : EligibleSet
  band2 : EligibleSet
  band3 : EligibleSet
deriving DecidableEq, Repr

/-- The channel entries, in rising order of channel, and the band entries (R25, R26). The default band is a policy
field (R177). -/
structure ChannelMap where
  entries : List ChannelEntry
  bands : Bands
deriving DecidableEq, Repr

/-! ### Tuner Holds (chapter 3) -/

structure Hold where
  kind : HoldKind
  channel : Nat
  key : MuxKey
  takenAt : Option Nat
deriving DecidableEq, Repr

/-- A tuner's hold record and last-drop reason (R36, R37). -/
structure HoldRecord where
  hold : Option Hold
  lastDrop : DropReason
deriving DecidableEq, Repr

/-! ### Link Table and Announcement Queue (chapter 4) -/

/-- A series link record (section 4.1). The preference is absent for ANY; the history is oldest first. -/
structure Link where
  seriesId : Nat
  preference : Option Nat
  policy : LinkPolicy
  status : LinkStatus
  priority : Nat
  prePad : Nat
  postPad : Nat
  follow : Bool
  keepAhead : Nat
  history : List Nat
  noteLimit : Bool
  noteTableFull : Bool
deriving DecidableEq, Repr

/-- A link slot (R48). The tag of an occupied slot is its last tag. -/
structure LinkSlot where
  lastTag : Nat
  link : Option Link
deriving DecidableEq, Repr

/-- An announcement as validated (section 4.5, R62). -/
structure Announcement where
  channel : Nat
  event : Nat
  start : Nat
  duration : Nat
  series : Option Nat
  episode : Option Nat
  isRepeat : Bool
  premiere : Bool
  status : RunningStatus
deriving DecidableEq, Repr

/-! ### Clash Planner (chapter 7) -/

/-- A place of the placement order (R93, R104), with the merit of step 0 (R91). -/
structure OrderEntry where
  handle : Handle
  merit : Int
  clamped : Bool
deriving DecidableEq, Repr

/-- An occupant of a tuner (R107). A FIRM hold has no close: it covers every instant from its open on (R43). -/
structure Occupant where
  tuner : Tuner
  openAt : Nat
  closeAt : Option Nat
  key : MuxKey
deriving DecidableEq, Repr

/-- The result of a booking step (R116); the stamp of the evaluation is the version seen. -/
structure StepResult where
  handle : Handle
  evaluation : Evaluation
deriving DecidableEq, Repr

/-- The part of the pass record that a pass in progress alone has (R99). -/
structure PassRecord where
  streamLimit : Nat
  order : List OrderEntry
  occupants : List Occupant
  results : List StepResult
deriving DecidableEq, Repr

/-- The Clash Planner (section 7.1): SWEEPING while `pass` is present. The pass time, the step counts and the last
evaluated handle stay readable after the pass (R99). Weights, stream limit and mode are policy fields. -/
structure Planner where
  stale : Bool
  abandoned : Nat
  revision : Nat
  pass : Option PassRecord
  passTime : Option Nat
  stepsDone : Nat
  stepsTotal : Nat
  lastEvaluated : Option Handle
deriving DecidableEq, Repr

/-! ### Station Clock (chapter 9) -/

/-- The Station Clock (section 9.1). `secondSlew` is s of the local second and `tickDue` a tick that is due (R158). -/
structure Clock where
  valid : Bool
  seconds : Nat
  divider : Nat
  secondLength : Nat
  secondSlew : Int
  tickDue : Bool
  trim : Int
  slew : Int
  stepped : Bool
  elapsed : Nat
deriving DecidableEq, Repr

/-! ### Policy, Attention Unit and lines (chapters 8 and 10) -/

/-- The policy fields (section 10.5). The default band is absent for NONE. -/
structure Policy where
  w1 : Int
  w2 : Int
  w3 : Int
  w4 : Int
  streamLimit : Nat
  wakeLead : Nat
  yieldLead : Nat
  confirmTimeout : Nat
  defaultBand : Option (Fin 4)
  mode : PlanningMode
deriving DecidableEq, Repr

/-- The levels that the rules derive: the lines (R150, R151, R184), the wake request (R185) and the causes (R182). The
YIELD level of the Window Timer (R152) is the YIELD cause. -/
structure Outputs where
  rec0 : Bool
  rec1 : Bool
  wake : Bool
  attn : Bool
  wakeRequest : Bool
  causes : PerCause Bool
deriving DecidableEq, Repr

/-! ### Request Port (chapter 10) -/

/-- A reply (R176, section 12.4). -/
structure Reply where
  kind : Byte
  code : ReplyCode
  results : List Byte
deriving DecidableEq, Repr

/-- A transaction in progress: its outgoing image, fixed at the falling edge of SS (R171), and whether the image's reply
has been replaced since (R172). -/
structure Transaction where
  status : Byte
  reply : Option Reply
  replaced : Bool
deriving DecidableEq, Repr

/-- What SS and the port stand at: SS high; SS low in a transaction; SS low, having fallen while PORTRESET was high; SS
low with its transaction cut off by a port reset (R171, R180). -/
inductive LinkPhase where
  | idle
  | transaction (t : Transaction)
  | ignored
  | cutOff
deriving DecidableEq, Repr

/-- A request in process (R174); its reply is discarded when a port reset came since (R181). -/
structure InProcess where
  request : Request
  discardReply : Bool
deriving DecidableEq, Repr

/-- The Request Port. BUSY is the presence of `inProcess`, REPLY_PENDING that of `pendingReply` (R175). `miso` is the
MODEL's record of the bytes MISO carried in the transaction that ended last, absent where the spec does not say. -/
structure Port where
  phase : LinkPhase
  portReset : Bool
  pendingReply : Option Reply
  inProcess : Option InProcess
  rejected : Bool
  replyLost : Bool
  miso : Option (List Byte)
deriving DecidableEq, Repr

/-! ### The part -/

/-- The whole part. `pending` is the model's own: the commands that wait, first in, first out. -/
structure State where
  bookings : List BookingSlot
  links : List LinkSlot
  queue : List Announcement
  map : ChannelMap
  holds : PerTuner HoldRecord
  planner : Planner
  clock : Clock
  policy : Policy
  routings : PerCause Routing
  port : Port
  hostAwake : Bool
  out : Outputs
  pending : List Instr
deriving DecidableEq, Repr

/-- Why the part stops: it never does. No event of the spec leaves the part in a fault, so no reason exists and nothing
raises one (safe). -/
inductive Fault where
deriving DecidableEq, Repr

/-- Why a command is refused. -/
inductive Refusal where
  /-- Raised by an arm of exec whose command has no meaning in the model yet; no arm does. Safe: the model stops where
  the part goes on. -/
  | notModelled (mnemonic : String)
deriving DecidableEq, Repr

/-- Power-on values of the Station Clock (R170). -/
def resetClock : Clock :=
  { valid := false, seconds := 0, divider := 0, secondLength := Config.crystalCounts, secondSlew := 0, tickDue := false,
    trim := 0, slew := 0, stepped := false, elapsed := 0 }

/-- Power-on values of the policy (section 10.5). -/
def resetPolicy : Policy :=
  { w1 := 64, w2 := 32, w3 := -48, w4 := 0, streamLimit := 3, wakeLead := 180, yieldLead := 60, confirmTimeout := 60,
    defaultBand := none, mode := .auto }

/-- Power-on values of the Clash Planner (R126). -/
def resetPlanner : Planner :=
  { stale := false, abandoned := 0, revision := 0, pass := none, passTime := none, stepsDone := 0, stepsTotal := 0,
    lastEvaluated := none }

/-- Power-on value of the Channel Map (R35). -/
def resetMap : ChannelMap :=
  { entries := [], bands := ⟨⟨true, true⟩, ⟨true, true⟩, ⟨true, true⟩, ⟨true, true⟩⟩ }

/-- Power-on value of the Request Port (R175). DESIGN CHOICE: SS is high and PORTRESET low, log entry 9. -/
def resetPort : Port :=
  { phase := .idle, portReset := false, pendingReply := none, inProcess := none, rejected := false, replyLost := false,
    miso := none }

/-- Power-on levels (R150, R151, R156, R190): the CLOCK cause, and ATTN with it. -/
def resetOutputs : Outputs :=
  { rec0 := false, rec1 := false, wake := false, attn := true, wakeRequest := false,
    causes := ⟨false, false, false, false, true, false⟩ }

/-- The part right after power-on reset. DESIGN CHOICE: HOSTAWAKE is low, log entry 9. -/
def State.reset : State :=
  { bookings := List.replicate Config.bookingSlots ⟨0, none⟩
    links := List.replicate Config.linkSlots ⟨0, none⟩
    queue := []
    map := resetMap
    holds := ⟨⟨none, .noDrop⟩, ⟨none, .noDrop⟩⟩
    planner := resetPlanner
    clock := resetClock
    policy := resetPolicy
    routings := ⟨.attnWake, .attn, .attn, .attn, .attn, .attn⟩
    port := resetPort
    hostAwake := false
    out := resetOutputs
    pending := [] }

end Sys2Proof.Machine
end

