-- ==== Sys2Proof/Machine/Ops.lean ====
section
/-! DEFINITION. The operations the commands share: station time, tuners, channel resolution, slots and handles, versions
and tags, the stale flag, and the completion of a request at the port. -/

namespace Sys2Proof.Machine

/-- What a command answers. -/
abbrev Out := Host.Outcome State Fault Refusal

/-! ### Station time (sections 6.2, 6.3) -/

/-- A sum of station seconds, saturated at the top of station time. -/
def satAdd (a b : Nat) : Nat := min Config.topOfTime (a + b)

/-- The core end of a showing (section 6.3). -/
def coreEnd (v : Showing) : Nat := satAdd v.start v.duration

/-- The padded start, saturated at 0 (section 6.3). -/
def paddedStart (v : Showing) (prePad : Nat) : Nat := v.start - prePad

/-- The padded end (section 6.3). -/
def paddedEnd (v : Showing) (postPad : Nat) : Nat := satAdd (coreEnd v) postPad

/-- 'Now': W as it stands (R157). -/
def now (s : State) : Nat := s.clock.seconds

/-- A point, wake instant or yield instant is reached while the clock is valid and W is at or beyond it (R130). -/
def reached (s : State) (point : Nat) : Bool := s.clock.valid && point ≤ s.clock.seconds

/-! ### Tuners and multiplex keys (sections 6.5, 2.2) -/

def PerTuner.at {α : Type} (p : PerTuner α) : Tuner → α
  | .tuner0 => p.on0
  | .tuner1 => p.on1

def PerTuner.put {α : Type} (p : PerTuner α) (t : Tuner) (a : α) : PerTuner α :=
  match t with
  | .tuner0 => { p with on0 := a }
  | .tuner1 => { p with on1 := a }

/-- The tuner of a number, for 0 and 1. -/
def tunerOf : Nat → Option Tuner
  | 0 => some .tuner0
  | 1 => some .tuner1
  | _ => none

def EligibleSet.has (e : EligibleSet) : Tuner → Bool
  | .tuner0 => e.has0
  | .tuner1 => e.has1

/-- The eligible tuner order: tuner 0, then tuner 1 (R27). -/
def EligibleSet.order (e : EligibleSet) : List Tuner := [Tuner.tuner0, Tuner.tuner1].filter e.has

def Bands.at (b : Bands) (i : Fin 4) : EligibleSet :=
  match i with
  | 0 => b.band0
  | 1 => b.band1
  | 2 => b.band2
  | 3 => b.band3

def Bands.put (b : Bands) (i : Fin 4) (e : EligibleSet) : Bands :=
  match i with
  | 0 => { b with band0 := e }
  | 1 => { b with band1 := e }
  | 2 => { b with band2 := e }
  | 3 => { b with band3 := e }

/-- The result of a resolution: a multiplex key and the eligible set (R27). -/
structure Route where
  key : MuxKey
  eligible : EligibleSet
deriving DecidableEq, Repr

/-- The entry of a channel, if it has one (R25). -/
def entryOf (s : State) (channel : Nat) : Option ChannelEntry := s.map.entries.find? (·.channel == channel)

/-- Resolution of a channel against the map as it stands (R27). -/
def resolve (s : State) (channel : Nat) : Option Route :=
  match entryOf s channel with
  | some e => some ⟨.mux e.mux, s.map.bands.at e.band⟩
  | none =>
    match s.policy.defaultBand with
    | some d => some ⟨.channelOnly channel, s.map.bands.at d⟩
    | none => none

/-! ### The stale flag (R100) -/

def markStale (s : State) : State := { s with planner := { s.planner with stale := true } }

/-- The stale flag is set when the condition holds, and left otherwise. -/
def markStaleIf (c : Bool) (s : State) : State := if c then markStale s else s

/-! ### Booking slots, handles and states (sections 1.2, 1.6) -/

def BookingState.isRunning : BookingState → Bool
  | .starting | .recording => true
  | .scheduled | .completed | .aborted | .failed | .missed => false

def BookingState.isFinished : BookingState → Bool
  | .completed | .aborted | .failed | .missed => true
  | .scheduled | .starting | .recording => false

/-- SCHEDULED, STARTING or RECORDING. -/
def BookingState.isLive (st : BookingState) : Bool := !st.isFinished

/-- The booking in a slot. -/
def bookingAt (s : State) (slot : Nat) : Option Booking := s.bookings[slot]?.bind (·.booking)

/-- The last tag of a slot, which is the tag of its booking while it is occupied (R2). -/
def tagAt (s : State) (slot : Nat) : Nat := (s.bookings[slot]?.map (·.lastTag)).getD 0

/-- The booking a handle names, while the handle is current (section 6.4). -/
def bookingOf (s : State) (h : Handle) : Option Booking := if tagAt s h.slot = h.tag then bookingAt s h.slot else none

/-- Every booking with its handle, in ascending slot order. -/
def occupied (s : State) : List (Handle × Booking) :=
  s.bookings.zipIdx.filterMap fun (sl, i) => sl.booking.map fun b => (⟨i, sl.lastTag⟩, b)

/-- Changes the record in a slot; a free slot stays free. -/
def updateBooking (s : State) (slot : Nat) (f : Booking → Booking) : State :=
  { s with bookings := s.bookings.modify slot fun sl => { sl with booking := sl.booking.map f } }

/-- Frees a slot: the record is discarded whole and the slot keeps its last tag (R17). -/
def freeBooking (s : State) (slot : Nat) : State :=
  { s with bookings := s.bookings.modify slot fun sl => { sl with booking := none } }

/-- The lowest free booking slot (section 6.4). -/
def lowestFreeBooking (s : State) : Option Nat := s.bookings.findIdx? fun sl => sl.booking.isNone

/-- The tag after a tag: one more, with 255 followed by 1 (R2). -/
def tagAfter (t : Nat) : Nat := if 255 ≤ t then 1 else t + 1

/-- A planning pass in progress recorded this handle at its step 0 (R104). -/
def recordedByPass (s : State) (h : Handle) : Bool :=
  match s.planner.pass with
  | some p => p.order.any fun e => e.handle == h
  | none => false

/-- The tag of a slot's next occupancy (R2). -/
def nextBookingTag (s : State) (slot : Nat) : Nat :=
  let t := tagAfter (tagAt s slot)
  if recordedByPass s ⟨slot, t⟩ then tagAfter t else t

/-- Occupies a slot with a record, under its next tag (R2). -/
def occupyBooking (s : State) (slot : Nat) (b : Booking) : State :=
  { s with bookings := s.bookings.set slot ⟨nextBookingTag s slot, some b⟩ }

/-- The check of a booking handle (R3). -/
def checkBooking (s : State) (h : Handle) : Except ReplyCode Booking :=
  if 127 < h.slot ∨ h.tag = 0 then .error .badValue
  else
    match bookingOf s h with
    | some b => .ok b
    | none => .error .staleHandle

/-! ### Link slots and handles (R48) -/

def linkAt (s : State) (slot : Nat) : Option Link := s.links[slot]?.bind (·.link)

def linkTagAt (s : State) (slot : Nat) : Nat := (s.links[slot]?.map (·.lastTag)).getD 0

def linkOf (s : State) (h : Handle) : Option Link := if linkTagAt s h.slot = h.tag then linkAt s h.slot else none

/-- Every link with its handle, in ascending slot order. -/
def occupiedLinks (s : State) : List (Handle × Link) :=
  s.links.zipIdx.filterMap fun (sl, i) => sl.link.map fun l => (⟨i, sl.lastTag⟩, l)

def updateLink (s : State) (slot : Nat) (f : Link → Link) : State :=
  { s with links := s.links.modify slot fun sl => { sl with link := sl.link.map f } }

def freeLink (s : State) (slot : Nat) : State :=
  { s with links := s.links.modify slot fun sl => { sl with link := none } }

def lowestFreeLink (s : State) : Option Nat := s.links.findIdx? fun sl => sl.link.isNone

def occupyLink (s : State) (slot : Nat) (l : Link) : State :=
  { s with links := s.links.set slot ⟨tagAfter (linkTagAt s slot), some l⟩ }

/-- A link handle's fields are in range (R48). -/
def linkHandleInRange (h : Handle) : Bool := h.slot ≤ 31 && h.tag != 0

/-- The check of a link handle (R48). -/
def checkLink (s : State) (h : Handle) : Except ReplyCode Link :=
  if linkHandleInRange h then
    match linkOf s h with
    | some l => .ok l
    | none => .error .staleHandle
  else .error .badValue

/-! ### Showings and pairs (section 1.5) -/

/-- The pair a showing carries: channel and event id, none without an event id (R7). -/
def pairOf (v : Showing) : Option (Nat × Nat) := v.event.map fun e => (v.channel, e)

def optionPair (v : Option Showing) : Option (Nat × Nat) := v.bind pairOf

/-- Two showings carry the same pair (R7). -/
def samePair (p q : Option (Nat × Nat)) : Bool := p.isSome && p == q

/-- Which showing of a booking carries a pair. -/
def carries (b : Booking) (p : Nat × Nat) : Option ShowingUsed :=
  if pairOf b.primary = some p then some .primary
  else if optionPair b.alternative = some p then some .alternative
  else none

/-- The booking and showing that carry a pair, in any state (R20, R68). -/
def findPair (s : State) (p : Nat × Nat) : Option (Handle × Booking × ShowingUsed) :=
  (occupied s).findSome? fun (h, b) => (carries b p).map fun u => (h, b, u)

/-- The showing of a booking that a name selects. -/
def showingNamed (b : Booking) : ShowingUsed → Option Showing
  | .primary => some b.primary
  | .alternative => b.alternative

/-- The later of the two core ends, the lapse point of a SCHEDULED booking (R132). -/
def latestCoreEnd (primary : Showing) (alternative : Option Showing) : Nat :=
  match alternative with
  | some a => max (coreEnd primary) (coreEnd a)
  | none => coreEnd primary

def lapsePoint (b : Booking) : Nat := latestCoreEnd b.primary b.alternative

/-! ### Versions and installed placements (R6, R131) -/

/-- The versions that passes in progress saw when they evaluated the booking of a handle (R6). -/
def seenVersions (s : State) (h : Handle) : List Nat :=
  match s.planner.pass with
  | some p => (p.results.filter fun r => r.handle == h).map fun r => r.evaluation.stamp
  | none => []

/-- The version stamp of the installed placement, when it carries one. -/
def stampOf (b : Booking) : Option Nat := b.installed.map (·.stamp)

/-- Goes up from a version while it is one of those to avoid, with 255 followed by 0 (R6). -/
def stepOver (avoid : List Nat) : Nat → Nat → Nat
  | 0, v => v
  | fuel + 1, v => if avoid.contains v then stepOver avoid fuel ((v + 1) % 256) else v

/-- The raised version of a booking (R6). -/
def raisedVersion (s : State) (h : Handle) (b : Booking) : Nat :=
  stepOver ((stampOf b).toList ++ seenVersions s h) 256 ((b.version + 1) % 256)

/-- The installed placement the Window Timer acts on: of a SCHEDULED booking, placed, with a version stamp equal to the
version. Its open is the open point (R131). -/
def currentPlacement (b : Booking) : Option Placement :=
  match b.state, b.installed with
  | .scheduled, some e =>
    match e.verdict with
    | .placed p => if e.stamp = b.version then some p else none
    | .clashed | .lapsed | .unreachable => none
  | _, _ => none

/-- The showing an installed placement uses (R134). -/
def PlacedKind.used : PlacedKind → ShowingUsed
  | .onAlternative => .alternative
  | .placed | .trimmed => .primary

/-! ### Running bookings of a tuner (R39, R134) -/

/-- The booking is STARTING or RECORDING and its running placement names the tuner. -/
def runsOn (t : Tuner) (b : Booking) : Bool :=
  b.state.isRunning && (match b.running with | some r => r.tuner == t | none => false)

/-- Every booking that runs on a tuner, whatever its close point. -/
def runningOn (s : State) (t : Tuner) : List (Handle × Booking) := (occupied s).filter fun e => runsOn t e.2

/-- The bookings that run on a tuner with their close point not reached, but for the one in the slot given. -/
def countedOn (s : State) (t : Tuner) (but : Option Nat) : List (Handle × Booking) :=
  (runningOn s t).filter fun e => !e.2.closeReached && (but != some e.1.slot)

/-- The running key of a booking. -/
def runningKey (b : Booking) : Option MuxKey := b.running.map (·.key)

/-- The FIRM hold of a tuner. -/
def firmHold (s : State) (t : Tuner) : Option Hold :=
  (s.holds.at t).hold.filter fun h => h.kind == .firm

/-- The SOFT hold of a tuner. -/
def softHold (s : State) (t : Tuner) : Option Hold :=
  (s.holds.at t).hold.filter fun h => h.kind == .soft

/-- Replaces the hold record of a tuner. -/
def putHold (s : State) (t : Tuner) (r : HoldRecord) : State := { s with holds := s.holds.put t r }

/-- Drops the hold of a tuner with a reason; a hold already absent leaves the reason as it stands (R37). -/
def dropHold (s : State) (t : Tuner) (reason : DropReason) : State :=
  if (s.holds.at t).hold.isSome then putHold s t ⟨none, reason⟩ else s

/-! ### Replies and the completion event (R174, R181) -/

/-- A reply's code and results, before the port gives it its kind. -/
structure Answer where
  code : ReplyCode
  results : List Byte
deriving DecidableEq, Repr

/-- A refusal: no results, and nothing changes (R176). -/
def refuse (s : State) (c : ReplyCode) : State × Answer := (s, ⟨c, []⟩)

/-- A request carried out, ADJUSTED when a field was clamped (R176). -/
def accept (s : State) (adjusted : Bool) (results : List Byte) : State × Answer :=
  (s, ⟨if adjusted then .adjusted else .ok, results⟩)

/-- A reply becomes the pending reply. One already pending is replaced and REPLY_LOST set (R174); a transaction in
progress takes note for its fetch (R172). -/
def pendReply (p : Port) (r : Reply) : Port :=
  { p with
    pendingReply := some r
    replyLost := p.replyLost || p.pendingReply.isSome
    phase :=
      match p.phase with
      | .transaction t => .transaction { t with replaced := true }
      | .idle => .idle
      | .ignored => .ignored
      | .cutOff => .cutOff }

/-- The completion event of a request at the port: BUSY is cleared, and the reply becomes pending or, after a port reset,
is discarded (R174, R181). -/
def completeRequest (s : State) (q : InProcess) (a : Answer) : State :=
  let p := { s.port with inProcess := none }
  { s with port := if q.discardReply then p else pendReply p ⟨kindOf q.request, a.code, a.results⟩ }

/-- The completion event of the request in process, when `take` owns it: its block takes it whole, and the port completes
it. With no such request in process there is no such event, and nothing is taken (log entry 1). -/
def onRequest (s : State) (take : Request → Option (State × Answer)) : Out :=
  match s.port.inProcess with
  | none => .next s
  | some q =>
    match take q.request with
    | none => .next s
    | some (s', a) => .next (completeRequest s' q a)

end Sys2Proof.Machine
end

