-- ==== Sys2Proof/Machine/Operands.lean ====
section
/-! DEFINITION. The checks of request fields: what is accepted, clamped or refused with BAD_VALUE (section 6.6, R4, R5,
R49, R62, R177, R193), and the codes of enumerated fields (section 12.1). A check answers none for BAD_VALUE and otherwise
the fields after clamping; a request clamped a field exactly when these differ from the fields sent. -/

namespace Sys2Proof.Machine

/-! ### Codes of enumerated fields (section 12.1) -/

def linkPolicyOf : Nat → Option LinkPolicy
  | 0 => some .newOnly
  | 1 => some .all
  | _ => none

def linkStatusOf : Nat → Option LinkStatus
  | 0 => some .active
  | 1 => some .dormant
  | _ => none

def holdKindOf : Nat → Option HoldKind
  | 0 => some .firm
  | 1 => some .soft
  | _ => none

def runningStatusOf : Nat → Option RunningStatus
  | 0 => some .unknown
  | 1 => some .running
  | 2 => some .notRunning
  | _ => none

def originOf : Nat → Option Origin
  | 0 => some .manual
  | 1 => some .series
  | _ => none

def modeOf : Nat → Option PlanningMode
  | 0 => some .auto
  | 1 => some .deferred
  | _ => none

def routingOf : Nat → Option Routing
  | 0 => some .off
  | 1 => some .attn
  | 2 => some .attnWake
  | _ => none

/-- A yes/no byte (section 12.1). -/
def yesNoOf : Nat → Option Bool
  | 0 => some false
  | 1 => some true
  | _ => none

/-- A band number. -/
def bandOf (n : Nat) : Option (Fin 4) := if h : n < 4 then some ⟨n, h⟩ else none

/-- A default band: a band number, or 255 for NONE; the inner none is NONE. -/
def defaultBandOf (n : Nat) : Option (Option (Fin 4)) := if n = 255 then some none else (bandOf n).map some

/-- An eligible set: bit 0 tuner 0, bit 1 tuner 1, values 0 to 3. -/
def eligibleOf (n : Nat) : Option EligibleSet := if n ≤ 3 then some ⟨n % 2 = 1, n / 2 = 1⟩ else none

/-! ### Ranges -/

/-- A channel number (section 6.3). -/
def isChannel (n : Nat) : Bool := 1 ≤ n && n ≤ 9999

/-- A value clamped between two limits. -/
def clampBetween (low high n : Nat) : Nat := max low (min high n)

/-- A duration of 60 to 86,400 s (R4, R62). -/
def clampDuration (n : Nat) : Nat := clampBetween 60 86400 n
/-- A pad of 0 to 7,200 s (R5, R49). -/
def clampPad (n : Nat) : Nat := min 7200 n
/-- A priority of 0 to 7 (R5, R49). -/
def clampPriority (n : Nat) : Nat := min 7 n

/-- A showing of a request (R4). -/
def checkShowing (v : Showing) : Option Showing :=
  if isChannel v.channel && v.duration != 0 then some { v with duration := clampDuration v.duration } else none

/-- A showing that may be absent; an absent one is not checked (R193). -/
def checkOptionalShowing : Option Showing → Option (Option Showing)
  | none => some none
  | some v => (checkShowing v).map some

/-- An id that may be absent and is not 0 when present (R5, R62). -/
def idAllowed (o : Option Nat) : Bool := o != some 0

/-- Follow is stored as no when the showing in use has no event id (R5). -/
def followFor (v : Option Showing) (follow : Bool) : Bool :=
  follow && (match v with | some x => x.event.isSome | none => false)

/-- The fields of ADD_BOOKING (R4, R5); the showing in use is the primary. -/
def checkAddBooking (f : AddBookingFields) : Option AddBookingFields :=
  match checkShowing f.primary, checkOptionalShowing f.alternative with
  | some p, some a =>
    if idAllowed f.episode then
      some { f with primary := p, alternative := a, prePad := clampPad f.prePad, postPad := clampPad f.postPad,
                    priority := clampPriority f.priority, follow := followFor (some p) f.follow }
    else none
  | _, _ => none

/-- The fields of AMEND_BOOKING (R4, R5), follow apart: the showing in use depends on the booking's state. -/
def checkAmendBooking (f : AmendBookingFields) : Option AmendBookingFields :=
  match checkShowing f.primary, checkOptionalShowing f.alternative with
  | some p, some a =>
    some { f with primary := p, alternative := a, prePad := clampPad f.prePad, postPad := clampPad f.postPad,
                  priority := clampPriority f.priority }
  | _, _ => none

/-- The fields ADD_LINK and AMEND_LINK both carry (R49, R193). -/
def checkLinkFields (f : LinkFields) : Option LinkFields :=
  if (isChannel f.preference || f.preference == 65535) && (linkPolicyOf f.policy).isSome then
    some { f with priority := clampPriority f.priority, prePad := clampPad f.prePad, postPad := clampPad f.postPad,
                  keepAhead := clampBetween 1 8 f.keepAhead }
  else none

/-- The channel preference a link stores: none for ANY. -/
def preferenceOf (n : Nat) : Option Nat := if n = 65535 then none else some n

/-- The fields of ANNOUNCE (R62): the announcement that joins the queue. -/
def checkAnnounce (f : AnnounceFields) : Option Announcement :=
  match f.event, runningStatusOf f.status with
  | some event, some status =>
    if isChannel f.channel && f.duration != 0 && idAllowed f.series && idAllowed f.episode then
      some { channel := f.channel, event := event, start := f.start, duration := clampDuration f.duration,
             series := f.series, episode := f.episode, isRepeat := f.isRepeat, premiere := f.premiere,
             status := status }
    else none
  | _, _ => none

/-- A merit weight is -128 to 127, and is not clamped (R90). -/
def isWeight (w : Int) : Bool := -128 ≤ w && w ≤ 127

/-- The clamped fields of SET_POLICY (R177). -/
def clampPolicy (f : PolicyFields) : PolicyFields :=
  { f with streamLimit := clampBetween 1 3 f.streamLimit, wakeLead := min 1800 f.wakeLead,
           yieldLead := min 600 f.yieldLead, confirmTimeout := clampBetween 10 255 f.confirmTimeout }

/-- The policy that SET_POLICY stores (R177). -/
def checkPolicy (f : PolicyFields) : Option Policy :=
  match defaultBandOf f.defaultBand, modeOf f.mode with
  | some band, some mode =>
    if isWeight f.w1 && isWeight f.w2 && isWeight f.w3 && isWeight f.w4 then
      let c := clampPolicy f
      some { w1 := c.w1, w2 := c.w2, w3 := c.w3, w4 := c.w4, streamLimit := c.streamLimit, wakeLead := c.wakeLead,
             yieldLead := c.yieldLead, confirmTimeout := c.confirmTimeout, defaultBand := band, mode := mode }
    else none
  | _, _ => none

/-- The routings of SET_ROUTING (R186). -/
def checkRouting (r : PerCause Nat) : Option (PerCause Routing) :=
  match routingOf r.startWaiting, routingOf r.clash, routingOf r.ended, routingOf r.yield, routingOf r.clock,
    routingOf r.linkNote with
  | some a, some b, some c, some d, some e, some g => some ⟨a, b, c, d, e, g⟩
  | _, _, _, _, _, _ => none

/-- The seven codes of the booking states (section 12.1). -/
def stateCode : BookingState → Nat
  | .scheduled => 0
  | .starting => 1
  | .recording => 2
  | .completed => 3
  | .aborted => 4
  | .failed => 5
  | .missed => 6

def linkStatusCode : LinkStatus → Nat
  | .active => 0
  | .dormant => 1

/-- A state set holds a state (section 12.1). -/
def stateInSet (set : Byte) (st : BookingState) : Bool := set.getLsbD (stateCode st)

/-- A state set with a defined bit set; bit 7 is reserved (R19, R193). -/
def stateSetNonempty (set : Byte) : Bool := (List.range 7).any fun i => set.getLsbD i

def statusInSet (set : Byte) (st : LinkStatus) : Bool := set.getLsbD (linkStatusCode st)

/-- A status set with a defined bit set (R57, R193). -/
def statusSetNonempty (set : Byte) : Bool := set.getLsbD 0 || set.getLsbD 1

/-- The fields of LIST (R19). -/
def listFieldsAllowed (f : ListFields) : Bool :=
  stateSetNonempty f.states && f.start ≤ 127 &&
    (match f.origin with | some o => (originOf o).isSome | none => true) &&
    (match f.link with | some h => linkHandleInRange h | none => true)

end Sys2Proof.Machine
end

