-- ==== Sys2Proof/Machine/Replies.lean ====
section
/-! DEFINITION. The bytes of replies and images (chapter 12): reply codes, result encodings in the order each rule lists
its results (R192), the booking image, the link image and the plan item. -/

namespace Sys2Proof.Machine

/-! ### Codes (sections 12.1, 12.4) -/

def replyCodeByte : ReplyCode → Byte
  | .ok => 0x00#8
  | .adjusted => 0x01#8
  | .unknownKind => 0x10#8
  | .badLength => 0x11#8
  | .badValue => 0x12#8
  | .staleHandle => 0x20#8
  | .notFound => 0x21#8
  | .tableFull => 0x30#8
  | .duplicate => 0x31#8
  | .queueFull => 0x32#8
  | .wrongState => 0x40#8
  | .tooLate => 0x41#8
  | .tunerBusy => 0x50#8
  | .notEligible => 0x51#8
  | .noRoute => 0x52#8

def boolCode (b : Bool) : Nat := if b then 1 else 0

def originCode : Origin → Nat
  | .manual => 0
  | .series => 1

def finishReasonCode : Option FinishReason → Nat
  | none => 0
  | some .stopped => 1
  | some .withdrawn => 2
  | some .declined => 3
  | some .noConfirm => 4

def runningStatusCode : RunningStatus → Nat
  | .unknown => 0
  | .running => 1
  | .notRunning => 2

def placedCode : PlacedKind → Nat
  | .placed => 1
  | .trimmed => 2
  | .onAlternative => 3

def verdictCode : Verdict → Nat
  | .placed p => placedCode p.kind
  | .clashed => 4
  | .lapsed => 5
  | .unreachable => 6

/-- The outcome RUNNING of plan items (section 12.1). -/
def runningOutcomeCode : Nat := 7

def usedCode : ShowingUsed → Nat
  | .primary => 0
  | .alternative => 1

def linkPolicyCode : LinkPolicy → Nat
  | .newOnly => 0
  | .all => 1

def holdKindCode : HoldKind → Nat
  | .firm => 0
  | .soft => 1

/-- The released kind of RELEASE: NONE is 2 (section 12.1). -/
def releasedKindCode : Option HoldKind → Nat
  | some k => holdKindCode k
  | none => 2

def dropReasonCode : DropReason → Nat
  | .noDrop => 0
  | .released => 1
  | .preempted => 2
  | .portReset => 3

def modeCode : PlanningMode → Nat
  | .auto => 0
  | .deferred => 1

def routingCode : Routing → Nat
  | .off => 0
  | .attn => 1
  | .attnWake => 2

def defaultBandCode : Option (Fin 4) → Nat
  | none => 255
  | some b => b.val

def eligibleCode (e : EligibleSet) : Nat := boolCode e.has0 + 2 * boolCode e.has1

def tunerCode : Tuner → Nat
  | .tuner0 => 0
  | .tuner1 => 1

/-- A multiplex key: bit 15 clear for MUX, set for PRIVATE (section 12.1). -/
def keyCode : MuxKey → Nat
  | .mux id => id % 4096
  | .channelOnly c => 32768 + c % 16384

/-- An absent key is 0 (section 12.1). -/
def optionalKeyCode : Option MuxKey → Nat
  | some k => keyCode k
  | none => 0

def boolByte (b : Bool) : List Byte := oneByte (boolCode b)

/-- An optional four-byte result, preceded by its presence byte (R192). -/
def presentFourBytes (o : Option Nat) : List Byte := boolByte o.isSome ++ fourBytes (o.getD 0)

/-- An optional handle, preceded by its presence byte (R192). -/
def presentHandleBytes (o : Option Handle) : List Byte := boolByte o.isSome ++ handleBytes (o.getD ⟨0, 0⟩)

/-! ### Replies as bytes (section 12.4) -/

/-- A reply: kind, code, result length, results. -/
def replyBytes (r : Reply) : List Byte :=
  [r.kind, replyCodeByte r.code, BitVec.ofNat 8 r.results.length] ++ r.results

/-- The image's bytes: the status octet, then the reply (R171). -/
def imageBytes (t : Transaction) : List Byte :=
  t.status ::
    match t.reply with
    | some r => replyBytes r
    | none => []

/-! ### The booking image (section 12.6) -/

/-- Offsets 47 to 59: the installed placement. -/
def installedBytes : Option Evaluation → List Byte
  | none => List.replicate 13 0
  | some e =>
    oneByte (verdictCode e.verdict) ++
      (match e.verdict with
        | .placed p => oneByte (tunerCode p.tuner) ++ fourBytes p.openAt ++ fourBytes p.closeAt
        | .clashed | .lapsed | .unreachable => List.replicate 9 0) ++
      oneByte e.stamp ++ signedTwoBytes e.merit

/-- Offsets 60 to 73: the running placement. -/
def runningBytes : Option RunningPlacement → List Byte
  | none => List.replicate 14 0
  | some r =>
    oneByte (tunerCode r.tuner) ++ twoBytes (keyCode r.key) ++ oneByte (usedCode r.used) ++ fourBytes r.actualOpen ++
      twoBytes r.postAllowance ++ fourBytes r.closePoint

/-- The 82-byte image of READ_BOOKING. -/
def bookingImage (h : Handle) (b : Booking) : List Byte :=
  handleBytes h ++
    flagByte [b.origin == .series, b.link.isSome, b.isRepeat, b.alternative.isSome, b.episode.isSome, b.follow,
      b.heldBack, b.lateStart] ++
    flagByte [b.clashMark, (match b.installed with | some e => e.clamped | none => false), b.running.isSome,
      b.startStamp.isSome, b.endStamp.isSome] ++
    oneByte (stateCode b.state) ++ oneByte (finishReasonCode b.finishReason) ++
    oneByte (runningStatusCode b.runningStatus) ++ handleBytes (b.link.getD ⟨0, 0⟩) ++ showingBytes b.primary ++
    optionalShowingBytes b.alternative ++ fourBytes (b.episode.getD 0) ++ twoBytes b.prePad ++ twoBytes b.postPad ++
    oneByte b.priority ++ twoBytes b.extensionUsed ++ oneByte b.version ++ installedBytes b.installed ++
    runningBytes b.running ++ fourBytes (b.startStamp.getD 0) ++ fourBytes (b.endStamp.getD 0)

/-! ### The link image (section 12.7) -/

/-- Eight episode ids, oldest first, entries beyond the length as zeros. -/
def historyBytes (ids : List Nat) : List Byte :=
  ((ids ++ List.replicate Config.historyPlaces 0).take Config.historyPlaces).flatMap fourBytes

/-- The 52-byte image of READ_LINK, with the counts of R53. -/
def linkImage (h : Handle) (l : Link) (scheduledCount liveCount : Nat) : List Byte :=
  handleBytes h ++ fourBytes l.seriesId ++ twoBytes (l.preference.getD 65535) ++ oneByte (linkPolicyCode l.policy) ++
    oneByte (linkStatusCode l.status) ++ oneByte l.priority ++ twoBytes l.prePad ++ twoBytes l.postPad ++
    flagByte [l.follow, l.noteLimit, l.noteTableFull] ++ oneByte l.keepAhead ++ oneByte scheduledCount ++
    oneByte liveCount ++ oneByte l.history.length ++ historyBytes l.history

/-! ### Plan items and lists (sections 12.4, 12.8) -/

/-- An item of READ_PLAN (R125). -/
structure PlanItem where
  handle : Option Handle
  openAt : Option Nat
  closeAt : Option Nat
  key : Option MuxKey
  outcome : Nat
deriving DecidableEq, Repr

/-- The 14 bytes of a plan item; an item without a handle is the hold item. -/
def planItemBytes (i : PlanItem) : List Byte :=
  flagByte [i.handle.isNone, i.openAt.isSome, i.closeAt.isSome, i.key.isSome] ++
    handleBytes (i.handle.getD ⟨0, 0⟩) ++ fourBytes (i.openAt.getD 0) ++ fourBytes (i.closeAt.getD 0) ++
    twoBytes (optionalKeyCode i.key) ++ oneByte i.outcome

/-- The results of LIST and LIST_LINKS: the first 16 handles with their count, and the slot of the 17th, 255 for none
(R19, R57, R192). -/
def listResults (hs : List Handle) : List Byte :=
  let shown := hs.take Config.listPlaces
  oneByte shown.length ++ shown.flatMap handleBytes ++
    oneByte (match hs[Config.listPlaces]? with | some h => h.slot | none => 255)

/-! ### Holds, policy and causes -/

/-- Kind, channel, key, and taken-at with its presence (R40, R42). -/
def holdBytes (h : Hold) : List Byte :=
  oneByte (holdKindCode h.kind) ++ twoBytes h.channel ++ twoBytes (keyCode h.key) ++ presentFourBytes h.takenAt

/-- A hold record with its presence; the fields of an absent hold are zeros (R42, R193). -/
def holdRecordBytes (r : HoldRecord) : List Byte :=
  boolByte r.hold.isSome ++
    (match r.hold with
      | some h => holdBytes h
      | none => List.replicate 10 0) ++
    oneByte (dropReasonCode r.lastDrop)

/-- Every policy field, in the order of SET_POLICY (R177, R179). -/
def policyBytes (p : Policy) : List Byte :=
  signedTwoBytes p.w1 ++ signedTwoBytes p.w2 ++ signedTwoBytes p.w3 ++ signedTwoBytes p.w4 ++ oneByte p.streamLimit ++
    twoBytes p.wakeLead ++ twoBytes p.yieldLead ++ twoBytes p.confirmTimeout ++ oneByte (defaultBandCode p.defaultBand) ++
    oneByte (modeCode p.mode)

/-- One value for each cause, as a list in the order of section 12.1. -/
def PerCause.toList {α : Type} (c : PerCause α) : List α :=
  [c.startWaiting, c.clash, c.ended, c.yield, c.clock, c.linkNote]

/-- For each cause, its level and its routing (R187). -/
def causeBytes (levels : PerCause Bool) (routings : PerCause Routing) : List Byte :=
  ((PerCause.toList levels).zip (PerCause.toList routings)).flatMap fun (l, r) => boolByte l ++ oneByte (routingCode r)

def routingBytes (r : PerCause Routing) : List Byte := (PerCause.toList r).flatMap fun x => oneByte (routingCode x)

end Sys2Proof.Machine
end

