-- ==== Sys2Proof/Machine/Flags.lean ====
section
/-! DEFINITION. The levels the rules derive: REC lines (R150), WAKE (R151), YIELD (R152), the causes (R182), ATTN and the
wake request (R184, R185), the counts of READ_CAUSES (R187) and the status octet (R175). An event that changes an input of
these ends in `settle`, which derives them again. -/

namespace Sys2Proof.Machine

/-! ### Counts of records (R187) -/

def countBookings (s : State) (p : Booking → Bool) : Nat := (occupied s).countP fun e => p e.2

def startingCount (s : State) : Nat := countBookings s fun b => b.state == .starting
def markedCount (s : State) : Nat := countBookings s fun b => b.clashMark
def finishedCount (s : State) : Nat := countBookings s fun b => b.state.isFinished
def notedCount (s : State) : Nat := (occupiedLinks s).countP fun e => e.2.noteLimit || e.2.noteTableFull

/-! ### Lamps (R150) -/

/-- A RECORDING booking's running placement names the tuner. -/
def recordsOn (t : Tuner) (b : Booking) : Bool :=
  b.state == .recording && (match b.running with | some r => r.tuner == t | none => false)

def recLine (s : State) (t : Tuner) : Bool := (occupied s).any fun e => recordsOn t e.2

/-! ### Approaching placements (R151, R152) -/

/-- The open point of a SCHEDULED booking that is not held back and whose lapse point has not been reached, less a lead
and saturated at 0, has been reached. -/
def approaches (s : State) (lead : Nat) (b : Booking) : Option Placement :=
  match currentPlacement b with
  | some p =>
    if !b.heldBack && !reached s (lapsePoint b) && reached s (p.openAt - lead) then some p else none
  | none => none

/-- The conflict of a SOFT hold with a booking that starts on its tuner under a key: another key, or more streams than
the policy stream limit, with `others` other running bookings counted (R44, R152). -/
def softConflict (s : State) (hold : Hold) (key : MuxKey) (others : Nat) : Bool :=
  hold.key != key || s.policy.streamLimit < others + 2

/-- A booking conflicts with the SOFT hold of the tuner its placement names (R152). -/
def yieldsTo (s : State) (b : Booking) : Bool :=
  match approaches s s.policy.yieldLead b with
  | some p =>
    match softHold s p.tuner, (showingNamed b p.kind.used).bind fun v => resolve s v.channel with
    | some hold, some route =>
      route.eligible.has p.tuner && softConflict s hold route.key (countedOn s p.tuner none).length
    | _, _ => false
  | none => false

/-- The YIELD level (R152). -/
def yieldLevel (s : State) : Bool := (occupied s).any fun e => yieldsTo s e.2

/-! ### Causes, ATTN and WAKE -/

/-- The level of each cause (R182). -/
def causeLevels (s : State) : PerCause Bool :=
  { startWaiting := (occupied s).any fun e => e.2.state == .starting
    clash := (occupied s).any fun e => e.2.clashMark
    ended := (occupied s).any fun e => e.2.state.isFinished
    yield := yieldLevel s
    clock := !s.clock.valid || s.clock.stepped
    linkNote := (occupiedLinks s).any fun e => e.2.noteLimit || e.2.noteTableFull }

/-- Some cause that is set has one of the routings given. -/
def someCause (levels : PerCause Bool) (routings : PerCause Routing) (p : Routing → Bool) : Bool :=
  ((PerCause.toList levels).zip (PerCause.toList routings)).any fun (l, r) => l && p r

/-- ATTN (R184). -/
def attnLevel (levels : PerCause Bool) (routings : PerCause Routing) : Bool :=
  someCause levels routings fun r => r != .off

/-- The wake request of the Attention Unit (R185). -/
def wakeRequestLevel (levels : PerCause Bool) (routings : PerCause Routing) : Bool :=
  someCause levels routings fun r => r == .attnWake

/-- The wake condition of the Window Timer, given the wake request (R151). -/
def wakeCondition (s : State) (request : Bool) : Bool :=
  ((occupied s).any fun e => (approaches s s.policy.wakeLead e.2).isSome) ||
    ((occupied s).any fun e => e.2.state == .starting) || request

/-- Every derived level, from the state as it stands. -/
def deriveOutputs (s : State) : Outputs :=
  let levels := causeLevels s
  let request := wakeRequestLevel levels s.routings
  { rec0 := recLine s .tuner0
    rec1 := recLine s .tuner1
    wake := !s.hostAwake && wakeCondition s request
    attn := attnLevel levels s.routings
    wakeRequest := request
    causes := levels }

/-- The levels derived again (R150, R151, R152, R182, R184, R185). -/
def settle (s : State) : State := { s with out := deriveOutputs s }

/-! ### The status octet (R175, section 12.2) -/

def statusOctet (s : State) : Byte :=
  (flagByte [s.planner.stale, s.planner.pass.isSome, s.clock.valid, s.port.replyLost, s.port.rejected, s.out.attn,
    s.port.pendingReply.isSome, s.port.inProcess.isSome]).headD 0

end Sys2Proof.Machine
end

