-- ==== Sys2Proof/Machine/Port.lean ====
section
/-! DEFINITION. The Request Port and the pins (chapter 10): TRANSACTION_START, FRAME_END, PORT_RESET, PORTRESET_FALL,
HOSTAWAKE_CHANGE, POWER_ON_RESET, SET_POLICY, READ_POLICY. -/

namespace Sys2Proof.Machine

def setPort (s : State) (p : Port) : State := { s with port := p }

/-! ### Transactions (R171 to R173, R191) -/

/-- The image of a transaction that begins now (R171). -/
def outgoingImage (s : State) : Transaction :=
  { status := statusOctet s, reply := s.port.pendingReply, replaced := false }

/-- TRANSACTION_START: SS falls. While PORTRESET is high no transaction begins (R180). With SS low already it cannot
fall, and nothing is taken. -/
def execTransactionStart (s : State) : Out :=
  match s.port.phase with
  | .idle =>
    .next (setPort s { s.port with phase := if s.port.portReset then .ignored else .transaction (outgoingImage s) })
  | .transaction _ | .ignored | .cutOff => .next s

/-- What the part does with MISO (R171, R180, section 8). -/
inductive MisoPin where
  /-- The part does not drive it. -/
  | threeState
  /-- Driven: these bytes are shifted out, and then zeros. -/
  | shifting (image : List Byte)
  /-- Driven, with bits that the rules do not give: the rest of a transaction that was cut off, log entry 11. -/
  | cutOff
deriving DecidableEq, Repr

/-- MISO is driven while SS is low and three-state while SS is high (R171). In a transaction it carries the image; where
SS fell while PORTRESET was high it carries zeros (R180). -/
def misoPin : LinkPhase → MisoPin
  | .idle => .threeState
  | .transaction t => .shifting (imageBytes t)
  | .ignored => .shifting []
  | .cutOff => .cutOff

/-- The bytes that MISO carries while n bytes are clocked: the image, then zeros (R171). -/
def shiftedOut (image : List Byte) (n : Nat) : List Byte := (image ++ List.replicate n 0).take n

/-- The record of a pin while n bytes are clocked: absent where no bytes are driven or the rules do not give them. -/
def recordMiso (pin : MisoPin) (n : Nat) : Option (List Byte) :=
  match pin with
  | .shifting image => some (shiftedOut image n)
  | .threeState | .cutOff => none

/-- SS rises after n whole bytes: MISO is let go, with what it carried in the record. -/
def raiseSelect (p : Port) (n : Nat) : Port := { p with phase := .idle, miso := recordMiso (misoPin p.phase) n }

/-- The length of a reply on the link, by its header (R172, R192). -/
def replyLength (r : Reply) : Nat := 3 + r.results.length

/-- The reply of the image is settled, after n bytes were clocked out (R172). -/
def settleFetch (p : Port) (t : Transaction) (n : Nat) : Port :=
  match t.reply with
  | none => p
  | some r =>
    if 1 + replyLength r ≤ n then
      { p with replyLost := false, pendingReply := if t.replaced then p.pendingReply else none }
    else p

/-- A reply the port forms itself: an accepted frame (R173, R176). -/
def portReply (p : Port) (kind : Byte) (code : ReplyCode) : Port :=
  pendReply { p with rejected := false } ⟨kind, code, []⟩

/-- A frame of a known kind and length is handed on: BUSY (R173). -/
def handOn (p : Port) (r : Request) : Port :=
  { p with inProcess := some ⟨r, false⟩, rejected := false }

/-- A frame with a declared length and its payload bytes (R173, R191). -/
def judgePayload (p : Port) (kind length : Byte) (payload : List Byte) : Port :=
  if Config.payloadLimit < length.toNat ∨ payload.length < length.toNat then portReply p kind .badLength
  else
    match kindLength kind with
    | none => portReply p kind .unknownKind
    | some n =>
      if length.toNat = n then
        match decodeRequest kind (payload.take n) with
        | some r => handOn p r
        | none => portReply p kind .unknownKind
      else portReply p kind .badLength

/-- The judgement of the incoming frame (R173). -/
def judgeFrame (p : Port) (bytes : List Byte) : Port :=
  match bytes with
  | [] => p
  | kind :: rest =>
    if kind = nopKind then p
    else if p.inProcess.isSome then { p with rejected := true }
    else
      match rest with
      | [] => portReply p kind .badLength
      | length :: payload => judgePayload p kind length payload

/-- The port after SS rises with the given whole bytes taken in (R172, R173, R180). -/
def endFrame (p : Port) (bytes : List Byte) : Port :=
  match p.phase with
  | .idle => p
  | .transaction t => judgeFrame (settleFetch (raiseSelect p bytes.length) t bytes.length) bytes
  | .ignored | .cutOff => raiseSelect p bytes.length

/-- FRAME_END: SS rises. Bits of an incomplete byte are ignored (R171). With SS high already it cannot rise, and nothing
is taken. -/
def execFrameEnd (mosi : List Byte) (_spare : List Bool) (s : State) : Out := .next (setPort s (endFrame s.port mosi))

/-! ### Port reset (R180, R181, R46) -/

/-- The port at a port reset: replies and flags cleared, a transaction cut off, a request in process left in process with
its reply to be discarded (R180). -/
def resetThePort (p : Port) : Port :=
  { p with
    portReset := true
    pendingReply := none
    rejected := false
    replyLost := false
    inProcess := p.inProcess.map fun q => { q with discardReply := true }
    phase :=
      match p.phase with
      | .transaction _ => .cutOff
      | .idle => .idle
      | .ignored => .ignored
      | .cutOff => .cutOff }

/-- Some tuner has a FIRM hold. -/
def anyFirmHold (s : State) : Bool := (firmHold s .tuner0).isSome || (firmHold s .tuner1).isSome

/-- Every present hold is dropped with a reason (R46, R47). -/
def dropHolds (s : State) (reason : DropReason) : State := dropHold (dropHold s .tuner0 reason) .tuner1 reason

/-- PORT_RESET: PORTRESET rises (R180, R46). While it is high already it cannot rise, and nothing is taken. -/
def execPortReset (s : State) : Out :=
  if s.port.portReset then .next s
  else
    .next (settle (markStaleIf (anyFirmHold s) (dropHolds (setPort s (resetThePort s.port)) .portReset)))

/-- PORTRESET_FALL: PORTRESET goes low, after which a falling edge of SS may begin a transaction again (R180). -/
def execPortresetFall (s : State) : Out := .next (setPort s { s.port with portReset := false })

/-! ### HOSTAWAKE and power (R151, R21) -/

/-- HOSTAWAKE_CHANGE: WAKE is derived again (R151). -/
def execHostawakeChange (level : Bool) (s : State) : Out := .next (settle { s with hostAwake := level })

/-- What SS and the port stand at after power-on: SS keeps its level, and no transaction is in progress. -/
def phaseAfterPower : LinkPhase → LinkPhase
  | .idle => .idle
  | .transaction _ => .cutOff
  | .ignored => .ignored
  | .cutOff => .cutOff

/-- POWER_ON_RESET: every block takes its power-on values (R21, R35, R47, R65, R66, R126, R156, R170, R175, R179, R183,
R190). The levels of the input pins are driven from outside and stay, and so does the queue, log entry 9. -/
def execPowerOnReset (s : State) : Out :=
  .next
    { State.reset with
      port := { resetPort with phase := phaseAfterPower s.port.phase, portReset := s.port.portReset }
      hostAwake := s.hostAwake
      pending := s.pending }

/-! ### Policy (R177 to R179) -/

/-- A weight, the stream limit or the default band differs from its stored value (R178). -/
def policyMakesStale (old new : Policy) : Bool :=
  old.w1 != new.w1 || old.w2 != new.w2 || old.w3 != new.w3 || old.w4 != new.w4 || old.streamLimit != new.streamLimit ||
    old.defaultBand != new.defaultBand

/-- SET_POLICY at its completion event (R177, R178). -/
def takeSetPolicy (s : State) (f : PolicyFields) : State × Answer :=
  match checkPolicy f with
  | none => refuse s .badValue
  | some p =>
    accept (settle (markStaleIf (policyMakesStale s.policy p) { s with policy := p })) (clampPolicy f != f)
      (policyBytes p)

/-- SET_POLICY (R177). -/
def execSetPolicy (s : State) : Out :=
  onRequest s fun
    | .setPolicy f => some (takeSetPolicy s f)
    | _ => none

/-- READ_POLICY (R179). -/
def execReadPolicy (s : State) : Out :=
  onRequest s fun
    | .readPolicy => some (accept s false (policyBytes s.policy))
    | _ => none

end Sys2Proof.Machine
end

