-- ==== Sys2Proof/Machine/Attention.lean ====
section
/-! DEFINITION. The Attention Unit (chapter 10): READ_CAUSES, SET_ROUTING, ACK_CLASH, CLEAR_ALL. -/

namespace Sys2Proof.Machine

/-- The results of READ_CAUSES: level and routing of each cause, the four counts, and the levels of ATTN and of the wake
request (R187). -/
def causesBytes (s : State) : List Byte :=
  causeBytes s.out.causes s.routings ++ oneByte (startingCount s) ++ oneByte (markedCount s) ++
    oneByte (finishedCount s) ++ oneByte (notedCount s) ++ boolByte s.out.attn ++ boolByte s.out.wakeRequest

/-- READ_CAUSES (R187). -/
def execReadCauses (s : State) : Out :=
  onRequest s fun
    | .readCauses => some (accept s false (causesBytes s))
    | _ => none

/-- SET_ROUTING at its completion event (R186). -/
def takeSetRouting (s : State) (r : PerCause Nat) : State × Answer :=
  match checkRouting r with
  | some x => accept (settle { s with routings := x }) false (routingBytes x)
  | none => refuse s .badValue

/-- SET_ROUTING (R186). -/
def execSetRouting (s : State) : Out :=
  onRequest s fun
    | .setRouting r => some (takeSetRouting s r)
    | _ => none

/-- ACK_CLASH at its completion event (R188). -/
def takeAckClash (s : State) (h : Handle) : State × Answer :=
  match checkBooking s h with
  | .error c => refuse s c
  | .ok b =>
    if b.clashMark then
      let s1 := settle (updateBooking s h.slot fun x => { x with clashMark := false })
      accept s1 false (boolByte true ++ oneByte (markedCount s1))
    else accept s false (boolByte false ++ oneByte (markedCount s))

/-- ACK_CLASH (R188). -/
def execAckClash (s : State) : Out :=
  onRequest s fun
    | .ackClash h => some (takeAckClash s h)
    | _ => none

/-- The planner after CLEAR_ALL: any pass abandoned uncounted, an empty plan installed, and the stale flag set (R128). -/
def clearPlanner (p : Planner) : Planner :=
  { p with stale := true, abandoned := 0, revision := (p.revision + 1) % 65536, pass := none, passTime := none,
           stepsDone := 0, stepsTotal := 0, lastEvaluated := none }

/-- CLEAR_ALL in its one event (R189). -/
def clearAll (s : State) : State :=
  settle
    (dropHolds
      { s with
        bookings := s.bookings.map fun sl => { sl with booking := none }
        links := s.links.map fun sl => { sl with link := none }
        queue := []
        planner := clearPlanner s.planner }
      .released)

/-- CLEAR_ALL (R189). -/
def execClearAll (s : State) : Out :=
  onRequest s fun
    | .clearAll => some (accept (clearAll s) false [])
    | _ => none

end Sys2Proof.Machine
end

