-- ==== Sys2Proof/Machine/Windows.lean ====
section
/-! DEFINITION. The Window Timer (chapter 8): points and due events, the open check, close and follow extension, end
moves, finishing, and the commands CONFIRM, DECLINE, STOP, OPEN_EVENT, CONFIRM_EXPIRY, CLOSE_EVENT and LAPSE_EVENT. -/

namespace Sys2Proof.Machine

/-! ### Due events (R130 to R133, R138) -/

/-- An open event is due (R131). -/
def openDue (s : State) (b : Booking) : Bool := (approaches s 0 b).isSome

/-- A lapse event is due (R132). -/
def lapseDue (s : State) (b : Booking) : Bool := b.state == .scheduled && reached s (lapsePoint b)

/-- A close event is due (R133). -/
def closeDue (b : Booking) : Bool := b.state.isRunning && b.closeReached

/-- The ticks the elapsed-seconds count has advanced by since a confirm timer's entry (R161). -/
def advanceSince (s : State) (entry : Nat) : Nat := (s.clock.elapsed + twoTo32 - entry) % twoTo32

/-- The expiry of a STARTING booking's confirm timer is due (R138, R161). -/
def expiryDue (s : State) (b : Booking) : Bool :=
  b.state == .starting &&
    (match b.confirmTimer with | some t => decide (t.timeout ≤ advanceSince s t.entry) | none => false)

/-- Some Timer event of a booking is due. -/
def timerEventDue (s : State) (b : Booking) : Bool := openDue s b || lapseDue s b || closeDue b || expiryDue s b

/-- Some Timer event is due; it is taken before the next tick (R130). -/
def someTimerEventDue (s : State) : Bool := (occupied s).any fun e => timerEventDue s e.2

/-- A new W brings close points at or before it into the reached state, where they stay (R133, R153, R154). -/
def reachClosePoint (s : State) (b : Booking) : Booking :=
  match b.running with
  | some r => { b with closeReached := b.closeReached || (b.state.isRunning && reached s r.closePoint) }
  | none => b

def reachClosePoints (s : State) : State :=
  { s with bookings := s.bookings.map fun sl => { sl with booking := sl.booking.map (reachClosePoint s) } }

/-! ### Finishing (R149, R60) -/

/-- The Link Table removes a booking's episode id from the history of its link (R60). -/
def removeFromHistory (s : State) (b : Booking) : State :=
  match b.link, b.episode with
  | some h, some e =>
    match linkOf s h with
    | some _ => updateLink s h.slot fun l => { l with history := l.history.filter fun x => x != e }
    | none => s
  | _, _ => s

/-- The record of a booking as it enters a finished state (R149). -/
def finished (s : State) (st : BookingState) (reason : Option FinishReason) (b : Booking) : Booking :=
  { b with state := st, finishReason := reason, endStamp := some (now s), confirmTimer := none, closeReached := false }

/-- Entry of a booking to a finished state: end stamp, finish reason, timer and due events discarded, the Planner stale,
and the episode id out of the history for FAILED and MISSED (R149). -/
def finishBooking (s : State) (h : Handle) (b : Booking) (st : BookingState) (reason : Option FinishReason) : State :=
  let s1 := markStale (updateBooking s h.slot (finished s st reason))
  match st with
  | .failed | .missed => removeFromHistory s1 b
  | .scheduled | .starting | .recording | .completed | .aborted => s1

/-! ### Close points, extensions and end moves (R133, R144, R145, R147, R148) -/

/-- The close point of a running booking, from its showing used, post allowance and extension used (R133). -/
def closePointOf (b : Booking) (r : RunningPlacement) : Nat :=
  match showingNamed b r.used with
  | some v => satAdd (coreEnd v + r.postAllowance) b.extensionUsed
  | none => r.closePoint

/-- The extension check of the booking in a slot (R145). -/
def extensionGranted (s : State) (slot : Nat) (b : Booking) (r : RunningPlacement) : Bool :=
  let others := countedOn s r.tuner (some slot)
  b.follow && b.runningStatus == .running && b.extensionUsed < Config.extensionLimit &&
    (others.all fun e => runningKey e.2 == some r.key) &&
    others.length + 1 + (if (firmHold s r.tuner).isSome then 1 else 0) ≤ s.policy.streamLimit

/-- A booking after one granted extension (R145): 300 s more used, and the close point computed again. -/
def extended (s : State) (r : RunningPlacement) (b : Booking) : Booking :=
  let b1 := { b with extensionUsed := b.extensionUsed + Config.extensionSeconds }
  let close := closePointOf b1 r
  { b1 with running := some { r with closePoint := close }, closeReached := reached s close }

/-- A close event taken for a booking (R144). -/
def closeBooking (s : State) (h : Handle) (b : Booking) : State :=
  match b.state, b.running with
  | .starting, _ => finishBooking s h b .failed (some .noConfirm)
  | .recording, some r =>
    if extensionGranted s h.slot b r then markStale (updateBooking s h.slot (extended s r))
    else finishBooking s h b .completed none
  | .recording, none => finishBooking s h b .completed none
  | .scheduled, _ | .completed, _ | .aborted, _ | .failed, _ | .missed, _ => s

/-- The end move of a running booking whose duration or post-pad changed; `b` holds the new fields, and `newPost` the new
post-pad when it changed (R147). A new close point already reached is closed in this event; one that differs makes the
Planner stale (R148). While the close event is due, the close point is not computed again. -/
def moveEnd (s : State) (h : Handle) (b : Booking) (newPost : Option Nat) : State :=
  match b.running with
  | none => s
  | some r =>
    if b.closeReached then s
    else
      let r1 := { r with postAllowance := newPost.getD r.postAllowance }
      let close := closePointOf b r1
      let b1 := { b with running := some { r1 with closePoint := close }, closeReached := reached s close }
      let s1 := updateBooking s h.slot fun _ => b1
      if reached s close then closeBooking s1 h b1 else markStaleIf (close != r.closePoint) s1

/-! ### The open check (R134 to R136) -/

/-- The key the open check resolves for a placement's showing, when the channel has a route whose order holds the
placement's tuner (R134 condition 1). -/
def openKey (s : State) (b : Booking) (p : Placement) : Option MuxKey :=
  match (showingNamed b p.kind.used).bind fun v => resolve s v.channel with
  | some route => if route.eligible.has p.tuner then some route.key else none
  | none => none

/-- Conditions 2 to 5 of the open check, for a key (R134). -/
def openCheck (s : State) (slot : Nat) (p : Placement) (key : MuxKey) : Bool :=
  let others := countedOn s p.tuner (some slot)
  decide (now s < p.closeAt) &&
    (match firmHold s p.tuner with | some hold => hold.key == key | none => true) &&
    (others.all fun e => runningKey e.2 == some key) &&
    others.length + (if (firmHold s p.tuner).isSome then 1 else 0) < s.policy.streamLimit

/-- The post allowance at entry: the installed close less the core end of the showing used (R135). -/
def postAllowanceAt (b : Booking) (p : Placement) : Nat :=
  match showingNamed b p.kind.used with
  | some v => p.closeAt - coreEnd v
  | none => 0

/-- The running placement written at entry to STARTING (R129, R135). -/
def runningAt (s : State) (b : Booking) (p : Placement) (key : MuxKey) : RunningPlacement :=
  let r : RunningPlacement :=
    { tuner := p.tuner, key := key, used := p.kind.used, actualOpen := now s, postAllowance := postAllowanceAt b p,
      closePoint := p.closeAt }
  { r with closePoint := closePointOf b r }

/-- The record of a booking as it enters STARTING (R135). -/
def started (s : State) (p : Placement) (key : MuxKey) (b : Booking) : Booking :=
  { b with
    state := .starting
    startStamp := some (now s)
    running := some (runningAt s b p key)
    confirmTimer := some ⟨s.clock.elapsed, s.policy.confirmTimeout⟩
    lateStart := decide (p.openAt < now s)
    runningStatus := if p.kind.used = .alternative then .unknown else b.runningStatus
    closeReached := false }

/-- The SOFT hold of the tuner is dropped when it conflicts with the starting booking (R44). -/
def preempt (s : State) (slot : Nat) (p : Placement) (key : MuxKey) : State :=
  match softHold s p.tuner with
  | some hold =>
    if softConflict s hold key (countedOn s p.tuner (some slot)).length then dropHold s p.tuner .preempted else s
  | none => s

/-- An open event taken for a booking with its placement (R134 to R136). -/
def openBooking (s : State) (h : Handle) (b : Booking) (p : Placement) : State :=
  match openKey s b p with
  | some key =>
    if openCheck s h.slot p key then updateBooking (preempt s h.slot p key) h.slot (started s p key)
    else updateBooking s h.slot fun x => { x with heldBack := true }
  | none => updateBooking s h.slot fun x => { x with heldBack := true }

/-! ### CONFIRM, DECLINE, STOP (R139, R140, R142) -/

/-- The code that a booking not STARTING is answered with (R139, R140). -/
def lateCode (b : Booking) : ReplyCode :=
  if b.state = .failed ∧ b.finishReason = some .noConfirm then .tooLate else .wrongState

def takeConfirm (s : State) (h : Handle) : State × Answer :=
  match checkBooking s h with
  | .error c => refuse s c
  | .ok b =>
    if b.state = .starting then
      accept (settle (updateBooking s h.slot fun x => { x with state := .recording, confirmTimer := none })) false []
    else refuse s (lateCode b)

def takeDecline (s : State) (h : Handle) : State × Answer :=
  match checkBooking s h with
  | .error c => refuse s c
  | .ok b =>
    if b.state = .starting then accept (settle (finishBooking s h b .failed (some .declined))) false []
    else refuse s (lateCode b)

def takeStop (s : State) (h : Handle) : State × Answer :=
  match checkBooking s h with
  | .error c => refuse s c
  | .ok b =>
    if b.state.isRunning then accept (settle (finishBooking s h b .aborted (some .stopped))) false []
    else refuse s .wrongState

/-- CONFIRM (R139). -/
def execConfirm (s : State) : Out :=
  onRequest s fun
    | .confirm h => some (takeConfirm s h)
    | _ => none

/-- DECLINE (R140). -/
def execDecline (s : State) : Out :=
  onRequest s fun
    | .decline h => some (takeDecline s h)
    | _ => none

/-- STOP (R142). -/
def execStop (s : State) : Out :=
  onRequest s fun
    | .stop h => some (takeStop s h)
    | _ => none

/-! ### Timer events -/

/-- A Timer event of the booking in a slot: taken while it is due, and not taken otherwise (R130). -/
def onTimer (s : State) (slot : Nat) (due : Booking → Bool) (take : Handle → Booking → State) : Out :=
  match bookingAt s slot with
  | some b => if due b then .next (settle (take ⟨slot, tagAt s slot⟩ b)) else .next s
  | none => .next s

/-- OPEN_EVENT (R131, R134). -/
def execOpenEvent (slot : Nat) (s : State) : Out :=
  onTimer s slot (openDue s) fun h b =>
    match currentPlacement b with
    | some p => openBooking s h b p
    | none => s

/-- CONFIRM_EXPIRY (R138). -/
def execConfirmExpiry (slot : Nat) (s : State) : Out :=
  onTimer s slot (expiryDue s) fun h b => finishBooking s h b .failed (some .noConfirm)

/-- CLOSE_EVENT (R144). -/
def execCloseEvent (slot : Nat) (s : State) : Out :=
  onTimer s slot closeDue fun h b => closeBooking s h b

/-- LAPSE_EVENT (R132). -/
def execLapseEvent (slot : Nat) (s : State) : Out :=
  onTimer s slot (lapseDue s) fun h b => finishBooking s h b .missed none

end Sys2Proof.Machine
end

