-- ==== Sys2Proof/Machine/Bookings.lean ====
section
/-! DEFINITION. The Booking Table (chapter 1): ADD_BOOKING, AMEND_BOOKING, WITHDRAW, READ_BOOKING, LIST, FIND. -/

namespace Sys2Proof.Machine

/-! ### Uniqueness (R7) -/

/-- A pair stands as a showing of an occupied slot, but for the slot given. -/
def pairStands (s : State) (but : Option Nat) (p : Option (Nat × Nat)) : Bool :=
  match p with
  | some q => (occupied s).any fun e => but != some e.1.slot && (carries e.2 q).isSome
  | none => false

/-- The DUPLICATE check of two showings (R7). -/
def duplicates (s : State) (but : Option Nat) (primary : Showing) (alternative : Option Showing) : Bool :=
  pairStands s but (pairOf primary) || pairStands s but (optionPair alternative) ||
    samePair (pairOf primary) (optionPair alternative)

/-! ### ADD_BOOKING (R11, R12) -/

/-- The record ADD_BOOKING creates (R12). -/
def manualBooking (f : AddBookingFields) : Booking :=
  { origin := .manual, link := none, isRepeat := false, primary := f.primary, alternative := f.alternative,
    episode := f.episode, prePad := f.prePad, postPad := f.postPad, priority := f.priority, follow := f.follow,
    runningStatus := .unknown, extensionUsed := 0, version := 0, state := .scheduled, finishReason := none,
    installed := none, heldBack := false, lateStart := false, clashMark := false, running := none, startStamp := none,
    endStamp := none, confirmTimer := none, closeReached := false }

/-- ADD_BOOKING at its completion event: field values, capacity, uniqueness, time (R11). -/
def takeAddBooking (s : State) (f : AddBookingFields) : State × Answer :=
  match checkAddBooking f with
  | none => refuse s .badValue
  | some c =>
    match lowestFreeBooking s with
    | none => refuse s .tableFull
    | some slot =>
      if duplicates s none c.primary c.alternative then refuse s .duplicate
      else if reached s (latestCoreEnd c.primary c.alternative) then refuse s .tooLate
      else
        accept (settle (markStale (occupyBooking s slot (manualBooking c)))) (c != f)
          (handleBytes ⟨slot, nextBookingTag s slot⟩)

/-- ADD_BOOKING (R11). -/
def execAddBooking (s : State) : Out :=
  onRequest s fun
    | .addBooking f => some (takeAddBooking s f)
    | _ => none

/-! ### AMEND_BOOKING (R13 to R15) -/

/-- Some placement-relevant field of the record differs from the request (R6). -/
def relevantChange (b : Booking) (f : AmendBookingFields) : Bool :=
  b.primary != f.primary || b.alternative != f.alternative || b.prePad != f.prePad || b.postPad != f.postPad ||
    b.priority != f.priority

/-- The record with every amendable field of the request, and its version raised when a placement-relevant field
changed (R6). -/
def amended (s : State) (h : Handle) (b : Booking) (f : AmendBookingFields) : Booking :=
  { b with
    primary := f.primary, alternative := f.alternative, prePad := f.prePad, postPad := f.postPad,
    priority := f.priority, follow := f.follow
    version := if relevantChange b f then raisedVersion s h b else b.version }

/-- The amend of a SCHEDULED booking (R14). -/
def amendScheduled (s : State) (h : Handle) (b : Booking) (f : AmendBookingFields) : State :=
  let newStatus :=
    if b.primary.channel = f.primary.channel ∧ b.primary.event = f.primary.event then b.runningStatus else .unknown
  markStaleIf (relevantChange b f || b.follow != f.follow)
    (updateBooking s h.slot fun _ => { amended s h b f with runningStatus := newStatus })

/-- The showing in use of a booking (section 5, R5). -/
def usedOf (b : Booking) : ShowingUsed :=
  match b.running with
  | some r => r.used
  | none => .primary

/-- The showing that an amend names as the showing in use. -/
def amendShowing (f : AmendBookingFields) : ShowingUsed → Option Showing
  | .primary => some f.primary
  | .alternative => f.alternative

/-- Two showings differ in their duration at most. -/
def sameButDuration (v w : Option Showing) : Bool :=
  match v, w with
  | some x, some y => { x with duration := y.duration } == y
  | none, none => true
  | _, _ => false

/-- An amend of a running booking changes nothing but the duration of the showing in use, the post-pad, follow and the
priority (R15). -/
def runningAmendAllowed (b : Booking) (f : AmendBookingFields) : Bool :=
  b.prePad == f.prePad &&
    (match usedOf b with
      | .primary => sameButDuration (some b.primary) (some f.primary) && b.alternative == f.alternative
      | .alternative => b.primary == f.primary && sameButDuration b.alternative f.alternative)

/-- The amend of a STARTING or RECORDING booking (R15, R147). -/
def amendRunning (s : State) (h : Handle) (b : Booking) (f : AmendBookingFields) : State :=
  let b1 := amended s h b f
  let s1 := updateBooking s h.slot fun _ => b1
  if showingNamed b (usedOf b) != amendShowing f (usedOf b) || b.postPad != f.postPad then
    moveEnd s1 h b1 (if b.postPad != f.postPad then some f.postPad else none)
  else s1

/-- AMEND_BOOKING at its completion event: field values, the handle, then the state (R13). -/
def takeAmendBooking (s : State) (h : Handle) (f : AmendBookingFields) : State × Answer :=
  match checkAmendBooking f with
  | none => refuse s .badValue
  | some c =>
    match checkBooking s h with
    | .error e => refuse s e
    | .ok b =>
      if b.state = .scheduled then
        let c1 := { c with follow := followFor (some c.primary) c.follow }
        if duplicates s (some h.slot) c1.primary c1.alternative then refuse s .duplicate
        else accept (settle (amendScheduled s h b c1)) (c1 != f) []
      else if b.state.isRunning then
        let c1 := { c with follow := followFor (amendShowing c (usedOf b)) c.follow }
        if runningAmendAllowed b c1 then accept (settle (amendRunning s h b c1)) (c1 != f) []
        else refuse s .wrongState
      else refuse s .wrongState

/-- AMEND_BOOKING (R13). -/
def execAmendBooking (s : State) : Out :=
  onRequest s fun
    | .amendBooking h f => some (takeAmendBooking s h f)
    | _ => none

/-! ### WITHDRAW (R16) -/

/-- WITHDRAW at its completion event (R16, R143). -/
def takeWithdraw (s : State) (h : Handle) : State × Answer :=
  match checkBooking s h with
  | .error c => refuse s c
  | .ok b =>
    match b.state with
    | .scheduled => accept (settle (markStale (freeBooking s h.slot))) false []
    | .starting | .recording => accept (settle (finishBooking s h b .aborted (some .withdrawn))) false []
    | .completed | .aborted | .failed | .missed => accept (settle (freeBooking s h.slot)) false []

/-- WITHDRAW (R16). -/
def execWithdraw (s : State) : Out :=
  onRequest s fun
    | .withdraw h => some (takeWithdraw s h)
    | _ => none

/-! ### READ_BOOKING, LIST, FIND (R18 to R20) -/

/-- READ_BOOKING at its completion event (R18). -/
def takeReadBooking (s : State) (h : Handle) : State × Answer :=
  match checkBooking s h with
  | .error c => refuse s c
  | .ok b => accept s false (bookingImage h b)

/-- READ_BOOKING (R18). -/
def execReadBooking (s : State) : Out :=
  onRequest s fun
    | .readBooking h => some (takeReadBooking s h)
    | _ => none

/-- A booking matches the filter of LIST (R19). -/
def listMatches (f : ListFields) (h : Handle) (b : Booking) : Bool :=
  decide (f.start ≤ h.slot) && stateInSet f.states b.state &&
    (match f.origin with | some o => originOf o == some b.origin | none => true) &&
    (match f.link with | some l => b.link == some l | none => true)

/-- The link handle of LIST, if given, is current (R19). -/
def listLinkCurrent (s : State) (f : ListFields) : Bool :=
  match f.link with
  | some h => (linkOf s h).isSome
  | none => true

/-- LIST at its completion event (R19). -/
def takeList (s : State) (f : ListFields) : State × Answer :=
  if listFieldsAllowed f then
    if listLinkCurrent s f then
      accept s false (listResults (((occupied s).filter fun e => listMatches f e.1 e.2).map fun e => e.1))
    else refuse s .staleHandle
  else refuse s .badValue

/-- LIST (R19). -/
def execList (s : State) : Out :=
  onRequest s fun
    | .list f => some (takeList s f)
    | _ => none

/-- FIND at its completion event (R20). -/
def takeFind (s : State) (channel event : Nat) : State × Answer :=
  if isChannel channel then
    match findPair s (channel, event) with
    | some (h, _, u) => accept s false (handleBytes h ++ oneByte (usedCode u))
    | none => refuse s .notFound
  else refuse s .badValue

/-- FIND (R20). -/
def execFind (s : State) : Out :=
  onRequest s fun
    | .find channel event => some (takeFind s channel event)
    | _ => none

end Sys2Proof.Machine
end

