-- ==== Sys2Proof/Machine/Channels.lean ====
section
/-! DEFINITION. The Channel Map (chapter 2): SET_CHANNEL, REMOVE_CHANNEL, READ_CHANNEL, SET_BAND. -/

namespace Sys2Proof.Machine

/-- Puts an entry into entries in rising order of channel, in place of one of the same channel (R25). -/
def putEntry (e : ChannelEntry) : List ChannelEntry → List ChannelEntry
  | [] => [e]
  | x :: xs =>
    if e.channel < x.channel then e :: x :: xs
    else if e.channel = x.channel then e :: xs
    else x :: putEntry e xs

/-- The entries without that of a channel (R31). -/
def removeEntry (channel : Nat) (es : List ChannelEntry) : List ChannelEntry :=
  es.filter fun e => e.channel != channel

def setEntries (s : State) (es : List ChannelEntry) : State := { s with map := { s.map with entries := es } }

/-- A multiplex id is 1 to 4,095 (R25). -/
def isMux (n : Nat) : Bool := 1 ≤ n && n ≤ 4095

/-- SET_CHANNEL at its completion event (R30). -/
def takeSetChannel (s : State) (channel mux band : Nat) : State × Answer :=
  match bandOf band with
  | some b =>
    if isChannel channel && isMux mux then
      let old := entryOf s channel
      let new : ChannelEntry := ⟨channel, mux, b⟩
      if old.isNone && decide (Config.mapPlaces ≤ s.map.entries.length) then refuse s .tableFull
      else
        accept (settle (markStaleIf (old != some new) (setEntries s (putEntry new s.map.entries)))) false
          (boolByte old.isNone)
    else refuse s .badValue
  | none => refuse s .badValue

/-- SET_CHANNEL (R30). -/
def execSetChannel (s : State) : Out :=
  onRequest s fun
    | .setChannel channel mux band => some (takeSetChannel s channel mux band)
    | _ => none

/-- REMOVE_CHANNEL at its completion event (R31). -/
def takeRemoveChannel (s : State) (channel : Nat) : State × Answer :=
  if isChannel channel then
    if (entryOf s channel).isSome then
      accept (settle (markStale (setEntries s (removeEntry channel s.map.entries)))) false []
    else refuse s .notFound
  else refuse s .badValue

/-- REMOVE_CHANNEL (R31). -/
def execRemoveChannel (s : State) : Out :=
  onRequest s fun
    | .removeChannel channel => some (takeRemoveChannel s channel)
    | _ => none

/-- READ_CHANNEL at its completion event (R32, section 12.8). -/
def takeReadChannel (s : State) (channel : Nat) : State × Answer :=
  if isChannel channel then
    match entryOf s channel with
    | some e =>
      accept s false
        (twoBytes e.channel ++ twoBytes e.mux ++ oneByte e.band.val ++ oneByte (eligibleCode (s.map.bands.at e.band)) ++
          twoBytes s.map.entries.length)
    | none => refuse s .notFound
  else refuse s .badValue

/-- READ_CHANNEL (R32). -/
def execReadChannel (s : State) : Out :=
  onRequest s fun
    | .readChannel channel => some (takeReadChannel s channel)
    | _ => none

/-- The sets of all four bands (R33). -/
def bandBytes (b : Bands) : List Byte :=
  oneByte (eligibleCode b.band0) ++ oneByte (eligibleCode b.band1) ++ oneByte (eligibleCode b.band2) ++
    oneByte (eligibleCode b.band3)

def setBands (s : State) (b : Bands) : State := { s with map := { s.map with bands := b } }

/-- SET_BAND at its completion event (R33). -/
def takeSetBand (s : State) (band eligible : Nat) : State × Answer :=
  match bandOf band, eligibleOf eligible with
  | some b, some e =>
    let new := s.map.bands.put b e
    accept (settle (markStaleIf (s.map.bands.at b != e) (setBands s new))) false (bandBytes new)
  | _, _ => refuse s .badValue

/-- SET_BAND (R33). -/
def execSetBand (s : State) : Out :=
  onRequest s fun
    | .setBand band eligible => some (takeSetBand s band eligible)
    | _ => none

end Sys2Proof.Machine
end

