-- ==== Sys2Proof/Machine/Clock.lean ====
section
/-! DEFINITION. The Station Clock (chapter 9): CRYSTAL_COUNT, TICK, SET_TIME, SET_TRIM, READ_CLOCK. -/

namespace Sys2Proof.Machine

/-! ### Time, seconds and slew (R157, R158) -/

/-- The fraction f: the divider count divided by 512, and 63 when that is larger (R157). -/
def fraction (c : Clock) : Nat := min 63 (c.divider / Config.sixtyFourth)

/-- L, the time in sixty-fourths (R157). -/
def timeInSixtyFourths (c : Clock) : Int := (c.seconds * 64 + fraction c : Nat)

/-- s for a remaining slew at the start of a second (R158). -/
def slewSign (slew : Int) : Int := if 0 < slew then 1 else if slew < 0 then -1 else 0

/-- N for a trim and s (R158). -/
def lengthFor (trim s : Int) : Nat := ((Config.crystalCounts : Int) + trim - (Config.sixtyFourth : Int) * s).toNat

/-- A local second begins, with N and s fixed from the trim and the remaining slew as they stand (R158). -/
def beginSecond (c : Clock) (divider : Nat) : Clock :=
  { c with divider := divider, tickDue := false, secondSlew := slewSign c.slew,
           secondLength := lengthFor c.trim (slewSign c.slew) }

def setClock (s : State) (c : Clock) : State := { s with clock := c }

/-! ### CRYSTAL_COUNT and TICK -/

/-- One crystal count (R158). The count that reaches N makes a tick due; the divider returns to 0 at that tick, so that
until then the fraction is that of the second that ends (R166, log entry 7). -/
def countCrystal (c : Clock) : Clock :=
  if c.secondLength ≤ c.divider + 1 then { c with tickDue := true } else { c with divider := c.divider + 1 }

/-- CRYSTAL_COUNT. The tick a count made due falls at that count's instant and is taken before the next count (log
entry 7). -/
def execCrystalCount (s : State) : Out :=
  if s.clock.tickDue then .next s else .next (setClock s (countCrystal s.clock))

/-- The remaining slew after a tick that ends a second with s (R159 step 3). -/
def slewAfterTick (secondSlew slew : Int) : Int :=
  if secondSlew = 1 ∧ 0 < slew then slew - 1
  else if secondSlew = -1 ∧ slew < 0 then slew + 1
  else slew

/-- The clock after a tick (R159 to R161). -/
def tickClock (c : Clock) : Clock :=
  beginSecond
    { c with
      seconds := satAdd c.seconds 1
      elapsed := (c.elapsed + 1) % twoTo32
      slew := slewAfterTick c.secondSlew c.slew }
    0

/-- TICK (R159). The divider reaches N in this event: counts up to N that were not commanded one by one pass within it
(log entry 6). A Timer event that is due is taken before the next tick (R130), so with one due no tick is taken. -/
def execTick (s : State) : Out :=
  if someTimerEventDue s then .next s
  else
    let s1 := setClock s (tickClock s.clock)
    .next (settle (reachClosePoints s1))

/-! ### SET_TIME (R162 to R165) -/

/-- How a time mark is taken (R163). -/
inductive MarkKind where
  | validated | stepped | slewed
deriving DecidableEq, Repr

def markKindCode : MarkKind → Nat
  | .validated => 0
  | .stepped => 1
  | .slewed => 2

/-- D = M - L (R162). -/
def markDifference (c : Clock) (seconds sixtyFourths : Nat) : Int :=
  ((seconds * 64 + sixtyFourths : Nat) : Int) - timeInSixtyFourths c

/-- How an accepted mark is taken (R163). -/
def markKind (c : Clock) (force : Bool) (d : Int) : MarkKind :=
  if !c.valid then .validated
  else if force || decide (d < -128) || decide (128 < d) then .stepped
  else .slewed

/-- D saturated to a signed 32-bit range (R163). -/
def saturateDifference (d : Int) : Int := max (-2147483648) (min 2147483647 d)

/-- The clock after a step to a mark (R165). -/
def stepClock (c : Clock) (seconds sixtyFourths : Nat) : Clock :=
  beginSecond { c with valid := true, seconds := seconds, slew := 0, stepped := c.valid || c.stepped }
    (Config.sixtyFourth * sixtyFourths)

/-- A mark taken as a step, or as a slew (R164, R165). -/
def takeMark (s : State) (kind : MarkKind) (seconds sixtyFourths : Nat) (d : Int) : State :=
  match kind with
  | .slewed => setClock s { s.clock with slew := d }
  | .validated | .stepped =>
    let s1 := markStale (setClock s (stepClock s.clock seconds sixtyFourths))
    settle (reachClosePoints s1)

/-- SET_TIME at its completion event (R162). -/
def takeSetTime (s : State) (seconds sixtyFourths force : Nat) : State × Answer :=
  match yesNoOf force with
  | some f =>
    if sixtyFourths ≤ 63 then
      let d := markDifference s.clock seconds sixtyFourths
      let kind := markKind s.clock f d
      accept (takeMark s kind seconds sixtyFourths d) false
        (oneByte (markKindCode kind) ++ signedFourBytes (saturateDifference d))
    else refuse s .badValue
  | none => refuse s .badValue

/-- SET_TIME (R163). -/
def execSetTime (s : State) : Out :=
  onRequest s fun
    | .setTime seconds sixtyFourths force => some (takeSetTime s seconds sixtyFourths force)
    | _ => none

/-! ### SET_TRIM and READ_CLOCK (R167, R168) -/

/-- A trim of -256 to 255 (R167). -/
def clampTrim (z : Int) : Int := max (-256) (min 255 z)

/-- SET_TRIM at its completion event (R167). -/
def takeSetTrim (s : State) (trim : Int) : State × Answer :=
  accept (setClock s { s.clock with trim := clampTrim trim }) (clampTrim trim != trim) (signedTwoBytes (clampTrim trim))

/-- SET_TRIM (R167). -/
def execSetTrim (s : State) : Out :=
  onRequest s fun
    | .setTrim trim => some (takeSetTrim s trim)
    | _ => none

/-- The results of READ_CLOCK (R168). -/
def clockBytes (c : Clock) : List Byte :=
  boolByte c.valid ++ fourBytes c.seconds ++ oneByte (fraction c) ++ signedTwoBytes c.trim ++ signedTwoBytes c.slew ++
    boolByte c.stepped ++ fourBytes c.elapsed

/-- READ_CLOCK at its completion event: the stepped flag is cleared in the same event (R168). -/
def takeReadClock (s : State) : State × Answer :=
  accept (settle (setClock s { s.clock with stepped := false })) false (clockBytes s.clock)

/-- READ_CLOCK (R168). -/
def execReadClock (s : State) : Out :=
  onRequest s fun
    | .readClock => some (takeReadClock s)
    | _ => none

end Sys2Proof.Machine
end

