-- ==== Sys2Proof/Machine/Holds.lean ====
section
/-! DEFINITION. Tuner Holds (chapter 3): HOLD, RELEASE, READ_HOLDS. -/

namespace Sys2Proof.Machine

/-- The indication of an accepted HOLD (R40), by its code. -/
inductive HoldIndication where
  | newHold | refreshed | replaced
deriving DecidableEq, Repr

def holdIndicationCode : HoldIndication → Nat
  | .newHold => 0
  | .refreshed => 1
  | .replaced => 2

/-- A FIRM HOLD meets a running booking on the tuner with another running key, or more than three streams (R39). -/
def holdConflict (s : State) (t : Tuner) (key : MuxKey) : Bool :=
  let running := runningOn s t
  (running.any fun e => runningKey e.2 != some key) || decide (Config.streamPlaces < running.length + 1)

/-- The hold an accepted HOLD leaves, and its indication (R40). -/
def acceptedHold (s : State) (old : Option Hold) (kind : HoldKind) (channel : Nat) (key : MuxKey) : Hold × HoldIndication :=
  let taken := if s.clock.valid then some (now s) else none
  match old with
  | none => (⟨kind, channel, key, taken⟩, .newHold)
  | some h =>
    if h.kind = kind ∧ h.key = key then ({ h with channel := channel }, .refreshed)
    else (⟨kind, channel, key, taken⟩, .replaced)

/-- A hold record held FIRM. -/
def isFirm (o : Option Hold) : Bool := o.any fun h => h.kind == .firm

/-- HOLD at its completion event: field values, route, eligibility, running bookings (R38 to R40). -/
def takeHold (s : State) (tuner channel kind : Nat) : State × Answer :=
  match tunerOf tuner, holdKindOf kind with
  | some t, some k =>
    if isChannel channel then
      match resolve s channel with
      | none => refuse s .noRoute
      | some route =>
        if route.eligible.has t then
          if k = .firm ∧ holdConflict s t route.key then refuse s .tunerBusy
          else
            let old := (s.holds.at t).hold
            let new := acceptedHold s old k channel route.key
            accept
              (settle (markStaleIf ((isFirm old || k == .firm) && new.2 != .refreshed)
                (putHold s t ⟨some new.1, .noDrop⟩)))
              false (oneByte (holdIndicationCode new.2) ++ holdBytes new.1)
        else refuse s .notEligible
    else refuse s .badValue
  | _, _ => refuse s .badValue

/-- HOLD (R38). -/
def execHold (s : State) : Out :=
  onRequest s fun
    | .hold tuner channel kind => some (takeHold s tuner channel kind)
    | _ => none

/-- RELEASE at its completion event (R41). -/
def takeRelease (s : State) (tuner : Nat) : State × Answer :=
  match tunerOf tuner with
  | some t =>
    let old := (s.holds.at t).hold
    accept (settle (markStaleIf (isFirm old) (dropHold s t .released))) false
      (oneByte (releasedKindCode (old.map fun h => h.kind)))
  | none => refuse s .badValue

/-- RELEASE (R41). -/
def execRelease (s : State) : Out :=
  onRequest s fun
    | .release tuner => some (takeRelease s tuner)
    | _ => none

/-- READ_HOLDS (R42). -/
def execReadHolds (s : State) : Out :=
  onRequest s fun
    | .readHolds => some (accept s false (holdRecordBytes s.holds.on0 ++ holdRecordBytes s.holds.on1))
    | _ => none

end Sys2Proof.Machine
end

