-- ==== Sys2Proof/Machine/Links.lean ====
section
/-! DEFINITION. The Link Table and the Announcement Queue (chapter 4): ADD_LINK, AMEND_LINK, SET_LINK_STATUS, the two
REMOVE_LINK commands, READ_LINK, LIST_LINKS, ANNOUNCE. -/

namespace Sys2Proof.Machine

/-! ### Bookings of a link (R53) -/

/-- The bookings of a link: those whose link reference is its handle. -/
def bookingsOf (s : State) (h : Handle) : List (Handle × Booking) := (occupied s).filter fun e => e.2.link == some h

/-- The link's SCHEDULED count (R53). -/
def scheduledCount (s : State) (h : Handle) : Nat := (bookingsOf s h).countP fun e => e.2.state == .scheduled

/-- The link's live count (R53). -/
def liveCount (s : State) (h : Handle) : Nat := (bookingsOf s h).countP fun e => e.2.state.isLive

/-! ### ADD_LINK, AMEND_LINK, SET_LINK_STATUS -/

/-- The status of ADD_LINK: DORMANT when it was asked, ACTIVE otherwise (R50); none for an undefined code. -/
def askedStatus : Option Nat → Option LinkStatus
  | none => some .active
  | some c => linkStatusOf c

/-- The record ADD_LINK creates, from checked fields (R50). -/
def newLink (series : Nat) (status : LinkStatus) (policy : LinkPolicy) (f : LinkFields) : Link :=
  { seriesId := series, preference := preferenceOf f.preference, policy := policy, status := status,
    priority := f.priority, prePad := f.prePad, postPad := f.postPad, follow := f.follow, keepAhead := f.keepAhead,
    history := [], noteLimit := false, noteTableFull := false }

/-- The link that carries a series id (R50, R73). -/
def linkOfSeries (s : State) (series : Nat) : Option (Handle × Link) :=
  (occupiedLinks s).find? fun e => e.2.seriesId == series

/-- ADD_LINK at its completion event: field values, capacity, uniqueness (R50). -/
def takeAddLink (s : State) (series : Nat) (status : Option Nat) (f : LinkFields) : State × Answer :=
  match checkLinkFields f, askedStatus status, linkPolicyOf f.policy with
  | some c, some st, some policy =>
    if series = 0 then refuse s .badValue
    else
      match lowestFreeLink s with
      | none => refuse s .tableFull
      | some slot =>
        if (linkOfSeries s series).isSome then refuse s .duplicate
        else
          accept (settle (occupyLink s slot (newLink series st policy c))) (c != f)
            (handleBytes ⟨slot, tagAfter (linkTagAt s slot)⟩)
  | _, _, _ => refuse s .badValue

/-- ADD_LINK (R50). -/
def execAddLink (s : State) : Out :=
  onRequest s fun
    | .addLink series status f => some (takeAddLink s series status f)
    | _ => none

/-- A link with the amendable fields of a request (R51). -/
def amendedLink (policy : LinkPolicy) (f : LinkFields) (l : Link) : Link :=
  { l with preference := preferenceOf f.preference, policy := policy, priority := f.priority, prePad := f.prePad,
           postPad := f.postPad, follow := f.follow, keepAhead := f.keepAhead }

/-- AMEND_LINK at its completion event (R51). -/
def takeAmendLink (s : State) (h : Handle) (f : LinkFields) : State × Answer :=
  match checkLinkFields f, linkPolicyOf f.policy with
  | some c, some policy =>
    match checkLink s h with
    | .error e => refuse s e
    | .ok _ => accept (settle (updateLink s h.slot (amendedLink policy c))) (c != f) []
  | _, _ => refuse s .badValue

/-- AMEND_LINK (R51). -/
def execAmendLink (s : State) : Out :=
  onRequest s fun
    | .amendLink h f => some (takeAmendLink s h f)
    | _ => none

/-- SET_LINK_STATUS at its completion event (R52). -/
def takeSetLinkStatus (s : State) (h : Handle) (status : Nat) : State × Answer :=
  match linkStatusOf status with
  | some st =>
    match checkLink s h with
    | .error e => refuse s e
    | .ok l =>
      accept (settle (updateLink s h.slot fun x => { x with status := st })) false (oneByte (linkStatusCode l.status))
  | none => refuse s .badValue

/-- SET_LINK_STATUS (R52). -/
def execSetLinkStatus (s : State) : Out :=
  onRequest s fun
    | .setLinkStatus h status => some (takeSetLinkStatus s h status)
    | _ => none

/-! ### REMOVE_LINK (R54, R55) -/

/-- What becomes of a slot whose booking belongs to the removed link: under WITHDRAW a SCHEDULED booking is freed, and any
other loses its link reference. -/
def removeLinkFrom (h : Handle) (withdraw : Bool) (sl : BookingSlot) : BookingSlot :=
  match sl.booking with
  | some b =>
    if b.link = some h then
      if withdraw && b.state == .scheduled then { sl with booking := none }
      else { sl with booking := some { b with link := none } }
    else sl
  | none => sl

/-- The link's bookings dealt with, and its slot freed. -/
def removeLink (s : State) (h : Handle) (withdraw : Bool) : State :=
  freeLink { s with bookings := s.bookings.map (removeLinkFrom h withdraw) } h.slot

/-- REMOVE_LINK at its completion event, with its disposal byte (R54, R55). -/
def takeRemoveLink (s : State) (h : Handle) (disposal : Nat) : State × Answer :=
  match disposal with
  | 0 =>
    match checkLink s h with
    | .error e => refuse s e
    | .ok _ => accept (settle (removeLink s h false)) false (oneByte (bookingsOf s h).length)
  | 1 =>
    match checkLink s h with
    | .error e => refuse s e
    | .ok _ =>
      accept (settle (markStale (removeLink s h true))) false
        (oneByte (scheduledCount s h) ++ oneByte ((bookingsOf s h).length - scheduledCount s h))
  | _ => refuse s .badValue

/-- REMOVE_LINK with disposal KEEP (R54). A disposal of neither value is answered by either REMOVE_LINK command, log
entry 5. -/
def execRemoveLinkKeep (s : State) : Out :=
  onRequest s fun
    | .removeLink h disposal => if disposal = 1 then none else some (takeRemoveLink s h disposal)
    | _ => none

/-- REMOVE_LINK with disposal WITHDRAW (R55). A disposal of neither value is answered by either REMOVE_LINK command, log
entry 5. -/
def execRemoveLinkWithdraw (s : State) : Out :=
  onRequest s fun
    | .removeLink h disposal => if disposal = 0 then none else some (takeRemoveLink s h disposal)
    | _ => none

/-! ### READ_LINK, LIST_LINKS -/

/-- READ_LINK at its completion event: the image before the notes are cleared, and the notes cleared (R56). -/
def takeReadLink (s : State) (h : Handle) : State × Answer :=
  match checkLink s h with
  | .error e => refuse s e
  | .ok l =>
    accept (settle (updateLink s h.slot fun x => { x with noteLimit := false, noteTableFull := false })) false
      (linkImage h l (scheduledCount s h) (liveCount s h))

/-- READ_LINK (R56). -/
def execReadLink (s : State) : Out :=
  onRequest s fun
    | .readLink h => some (takeReadLink s h)
    | _ => none

/-- A link matches the filter of LIST_LINKS (R57). -/
def listLinksMatches (statuses : Byte) (noted : Bool) (start : Nat) (h : Handle) (l : Link) : Bool :=
  decide (start ≤ h.slot) && statusInSet statuses l.status && (!noted || l.noteLimit || l.noteTableFull)

/-- LIST_LINKS at its completion event (R57). -/
def takeListLinks (s : State) (statuses : Byte) (noted : Bool) (start : Nat) : State × Answer :=
  if statusSetNonempty statuses && decide (start ≤ 31) then
    accept s false
      (listResults (((occupiedLinks s).filter fun e => listLinksMatches statuses noted start e.1 e.2).map fun e => e.1))
  else refuse s .badValue

/-- LIST_LINKS (R57). -/
def execListLinks (s : State) : Out :=
  onRequest s fun
    | .listLinks statuses noted start => some (takeListLinks s statuses noted start)
    | _ => none

/-! ### ANNOUNCE (R62, R63) -/

/-- ANNOUNCE at its completion event: the fields, then the queue (R63). -/
def takeAnnounce (s : State) (f : AnnounceFields) : State × Answer :=
  match checkAnnounce f with
  | none => refuse s .badValue
  | some a =>
    if Config.queuePlaces ≤ s.queue.length then refuse s .queueFull
    else
      accept { s with queue := s.queue ++ [a] } (a.duration != f.duration) (oneByte (s.queue.length + 1))

/-- ANNOUNCE (R63). -/
def execAnnounce (s : State) : Out :=
  onRequest s fun
    | .announce f => some (takeAnnounce s f)
    | _ => none

end Sys2Proof.Machine
end

