-- ==== Sys2Proof/Machine/Matcher.lean ====
section
/-! DEFINITION. The Series Matcher (chapter 5): MATCHER_EVENT, step by step. -/

namespace Sys2Proof.Machine

/-- The showing an announcement announces, with its clamped duration. -/
def announcedShowing (a : Announcement) : Showing :=
  { channel := a.channel, event := some a.event, start := a.start, duration := a.duration }

/-- A booking with one of its showings changed. -/
def withShowing (b : Booking) (u : ShowingUsed) (f : Showing → Showing) : Booking :=
  match u with
  | .primary => { b with primary := f b.primary }
  | .alternative => { b with alternative := b.alternative.map f }

/-! ### Step 1: a showing already booked (R68 to R72) -/

/-- A showing of a SCHEDULED booking is announced (R69): start and duration are taken; the running status is stored when
the primary matched. -/
def announceScheduled (s : State) (h : Handle) (b : Booking) (u : ShowingUsed) (a : Announcement) : State :=
  let moved := withShowing b u fun v => { v with start := a.start, duration := a.duration }
  let changed := showingNamed moved u != showingNamed b u
  markStaleIf changed
    (updateBooking s h.slot fun _ =>
      { moved with
        version := if changed then raisedVersion s h b else b.version
        runningStatus := if u = .primary then a.status else b.runningStatus })

/-- The showing in use of a running booking is announced (R70, R71): its duration is taken and its end moves, and the
running status is stored. -/
def announceRunning (s : State) (h : Handle) (b : Booking) (u : ShowingUsed) (a : Announcement) : State :=
  let moved := withShowing b u fun v => { v with duration := a.duration }
  let changed := showingNamed moved u != showingNamed b u
  let b1 :=
    { moved with
      version := if changed then raisedVersion s h b else b.version
      runningStatus := a.status }
  let s1 := updateBooking s h.slot fun _ => b1
  if changed then moveEnd s1 h b1 none else s1

/-- Step 1 on the booking and showing found (R69 to R72). -/
def announceKnown (s : State) (h : Handle) (b : Booking) (u : ShowingUsed) (a : Announcement) : State :=
  match b.state with
  | .scheduled => announceScheduled s h b u a
  | .starting | .recording => if usedOf b = u then announceRunning s h b u a else s
  | .completed | .aborted | .failed | .missed => s

/-! ### Steps 3 to 5 (R76 to R82) -/

/-- The link's SCHEDULED booking that carries an episode id (R76). -/
def scheduledEpisode (s : State) (h : Handle) (episode : Nat) : Option (Handle × Booking) :=
  (bookingsOf s h).find? fun e => e.2.state == .scheduled && e.2.episode == some episode

/-- Step 3: the announced showing becomes the alternative of the link's SCHEDULED booking, when that has none (R76, R77). -/
def attachAlternative (s : State) (h : Handle) (episode : Nat) (a : Announcement) : State :=
  match scheduledEpisode s h episode with
  | some (bh, b) =>
    if b.alternative.isNone then
      markStale
        (updateBooking s bh.slot fun x =>
          { x with alternative := some (announcedShowing a), version := raisedVersion s bh b })
    else s
  | none => s

/-- An episode id is carried by a live booking of the link (R59). -/
def carriedLive (s : State) (h : Handle) (episode : Nat) : Bool :=
  (bookingsOf s h).any fun e => e.2.state.isLive && e.2.episode == some episode

/-- A list without the first member that meets a condition; none when no member does. -/
def dropFirst (p : Nat → Bool) : List Nat → Option (List Nat)
  | [] => none
  | x :: xs => if p x then some xs else (dropFirst p xs).map fun ys => x :: ys

/-- The history with room for one id: as it is below eight ids, else less the oldest id carried by no live booking of the
link; none when there is no such id (R59). -/
def historyWithRoom (s : State) (h : Handle) (history : List Nat) : Option (List Nat) :=
  if history.length < Config.historyPlaces then some history
  else dropFirst (fun id => !carriedLive s h id) history

def setLimitNote (s : State) (h : Handle) : State := updateLink s h.slot fun l => { l with noteLimit := true }

def setTableFullNote (s : State) (h : Handle) : State := updateLink s h.slot fun l => { l with noteTableFull := true }

/-- The booking step 5 creates (R82). -/
def seriesBooking (h : Handle) (l : Link) (a : Announcement) : Booking :=
  { origin := .series, link := some h, isRepeat := a.isRepeat, primary := announcedShowing a, alternative := none,
    episode := a.episode, prePad := l.prePad, postPad := l.postPad, priority := l.priority, follow := l.follow,
    runningStatus := a.status, extensionUsed := 0, version := 0, state := .scheduled, finishReason := none,
    installed := none, heldBack := false, lateStart := false, clashMark := false, running := none, startStamp := none,
    endStamp := none, confirmTimer := none, closeReached := false }

/-- The history check and the creation: the history the link gets (R81, R82); none when there is no room. -/
def historyAfter (s : State) (h : Handle) (l : Link) (a : Announcement) : Option (List Nat) :=
  match a.episode with
  | some e => (historyWithRoom s h l.history).map fun ids => ids ++ [e]
  | none => some l.history

/-- Step 5: keep-ahead, capacity, history, creation (R79 to R82). -/
def bookEpisode (s : State) (h : Handle) (l : Link) (a : Announcement) : State :=
  if l.keepAhead ≤ scheduledCount s h then setLimitNote s h
  else
    match lowestFreeBooking s with
    | none => setTableFullNote s h
    | some slot =>
      match historyAfter s h l a with
      | none => setLimitNote s h
      | some ids =>
        markStale
          (updateLink (occupyBooking s slot (seriesBooking h l a)) h.slot fun x => { x with history := ids })

/-- Steps 3 to 5 for a link and an announcement that passed step 2. -/
def applyToLink (s : State) (h : Handle) (l : Link) (a : Announcement) : State :=
  match a.episode.filter fun e => l.history.contains e with
  | some e => attachAlternative s h e a
  | none => if a.isRepeat && l.policy == .newOnly then s else bookEpisode s h l a

/-! ### Step 2 (R73 to R75) -/

/-- The link passes over the announcement: DORMANT without premiere (R73). -/
def sleepsThrough (l : Link) (a : Announcement) : Bool := l.status == .dormant && !a.premiere

/-- The announcement is on a channel the link takes (R74). -/
def prefers (l : Link) (a : Announcement) : Bool := l.preference.all fun c => c == a.channel

/-- Step 2 for the link found, and the later steps; a premiere wakes a DORMANT link whatever follows (R73). -/
def announceToLink (s : State) (h : Handle) (l : Link) (a : Announcement) : State :=
  if sleepsThrough l a then s
  else
    let awake := updateLink s h.slot fun x => { x with status := .active }
    if prefers l a && !reached s (coreEnd (announcedShowing a)) then applyToLink awake h l a else awake

/-- The link of the announcement's series id (R73); step 6 when there is none (R84). -/
def announceUnknown (s : State) (a : Announcement) : State :=
  match a.series.bind fun id => linkOfSeries s id with
  | some (h, l) => announceToLink s h l a
  | none => s

/-- An announcement applied whole (R67). -/
def applyAnnouncement (s : State) (a : Announcement) : State :=
  match findPair s (a.channel, a.event) with
  | some (h, b, u) => announceKnown s h b u a
  | none => announceUnknown s a

/-- MATCHER_EVENT: the head announcement leaves the queue and is applied (R64, R67). With an empty queue no matcher event
is due, and nothing is taken. -/
def execMatcherEvent (s : State) : Out :=
  match s.queue with
  | a :: rest => .next (settle (applyAnnouncement { s with queue := rest } a))
  | [] => .next s

end Sys2Proof.Machine
end

