-- ==== Sys2Proof/Machine/Fit.lean ====
section
/-! DEFINITION. Fit on a tuner (section 7.5) and the evaluation of one booking (section 7.6). The rules judge instant by
instant. An instant becomes not free only where an occupant opens and free again only where one closes, so these
definitions look at those instants alone (log entry 14). -/

namespace Sys2Proof.Machine

/-- The occupants of a pass, with the stream limit of the pass and its pass time. -/
structure Board where
  occupants : List Occupant
  limit : Nat
  passTime : Nat
deriving DecidableEq, Repr

/-- An occupant covers an instant (section 6.2, R43). -/
def Occupant.covers (o : Occupant) (t : Nat) : Bool :=
  decide (o.openAt ≤ t) && (match o.closeAt with | some c => decide (t < c) | none => true)

/-- The occupants of a tuner. -/
def Board.onTuner (bd : Board) (t : Tuner) : List Occupant := bd.occupants.filter fun o => o.tuner == t

/-- The occupants of a tuner that cover an instant. -/
def Board.covering (bd : Board) (t : Tuner) (i : Nat) : List Occupant := (bd.onTuner t).filter fun o => o.covers i

/-- An instant is free on a tuner for a key (R107). -/
def Board.isFree (bd : Board) (t : Tuner) (key : MuxKey) (i : Nat) : Bool :=
  ((bd.covering t i).all fun o => o.key == key) && decide ((bd.covering t i).length < bd.limit)

/-- The window [a, b) fits on a tuner for a key (R107). -/
def Board.fits (bd : Board) (t : Tuner) (key : MuxKey) (a b : Nat) : Bool :=
  decide (b ≤ a) ||
    (bd.isFree t key a &&
      (bd.onTuner t).all fun o => !(decide (a < o.openAt) && decide (o.openAt < b)) || bd.isFree t key o.openAt)

/-- The smallest member of a list and a bound. -/
def least (bound : Nat) (xs : List Nat) : Nat := xs.foldr min bound

/-- The largest member of a list and a bound. -/
def greatest (bound : Nat) (xs : List Nat) : Nat := xs.foldr max bound

/-- open′: the earliest instant a from `p` to `c` such that [a, c) fits (R112). -/
def Board.trimmedOpen (bd : Board) (t : Tuner) (key : MuxKey) (p c : Nat) : Nat :=
  least c
    ((p :: (bd.onTuner t).filterMap fun o => o.closeAt).filter fun a =>
      decide (p ≤ a) && decide (a ≤ c) && bd.fits t key a c)

/-- close′: the latest instant b from `e` to `q` such that [e, b) fits (R112). -/
def Board.trimmedClose (bd : Board) (t : Tuner) (key : MuxKey) (e q : Nat) : Nat :=
  greatest e
    ((q :: (bd.onTuner t).map fun o => o.openAt).filter fun b =>
      decide (e ≤ b) && decide (b ≤ q) && bd.fits t key e b)

/-- A showing as a booking step tries it: key, eligible set, clipped padded window, clipped core window (R108, R109). -/
structure Tried where
  key : MuxKey
  eligible : EligibleSet
  paddedOpen : Nat
  paddedClose : Nat
  coreOpen : Nat
  coreClose : Nat
deriving DecidableEq, Repr

/-- How a showing ends: placed full or trimmed, not fitted, UNREACHABLE or LAPSED (section 7.6). -/
inductive Trial where
  | placed (full : Bool) (t : Tuner) (openAt closeAt : Nat) (key : MuxKey)
  | notFitted
  | unreachable
  | lapsed
deriving DecidableEq, Repr

/-- The occupant carries the key and its window overlaps the clipped padded window; a FIRM hold counts as overlapping
(R110). -/
def steersTo (v : Tried) (o : Occupant) : Bool :=
  o.key == v.key &&
    (match o.closeAt with
      | some c => decide (max o.openAt v.paddedOpen < min c v.paddedClose)
      | none => true)

/-- The tuner order of a showing (R110). -/
def Board.tunerOrder (bd : Board) (v : Tried) : List Tuner :=
  let carries := fun t => (bd.onTuner t).any fun o => steersTo v o
  v.eligible.order.filter carries ++ v.eligible.order.filter fun t => !carries t

/-- The trimmed window of a showing on each tuner of an order where its clipped core fits (R112). -/
def Board.trimmedWindows (bd : Board) (v : Tried) (order : List Tuner) : List (Tuner × Nat × Nat) :=
  (order.filter fun t => bd.fits t v.key v.coreOpen v.coreClose).map fun t =>
    (t, bd.trimmedOpen t v.key v.paddedOpen v.coreOpen, bd.trimmedClose t v.key v.coreClose v.paddedClose)

/-- The longest window of a list, the earlier of equals (R113). -/
def longest : List (Tuner × Nat × Nat) → Option (Tuner × Nat × Nat)
  | [] => none
  | w :: ws =>
    match longest ws with
    | none => some w
    | some v => if w.2.2 - w.2.1 < v.2.2 - v.2.1 then some v else some w

/-- A trimmed placement, tried when the clipped core window is not empty (R112, R113). -/
def Board.placeTrimmed (bd : Board) (v : Tried) (order : List Tuner) : Trial :=
  if v.coreClose ≤ v.coreOpen then .notFitted
  else
    match longest (bd.trimmedWindows v order) with
    | some (t, a, b) => .placed false t a b v.key
    | none => .notFitted

/-- A full placement on the first tuner of the order, and otherwise a trimmed one (R111). -/
def Board.place (bd : Board) (v : Tried) : Trial :=
  let order := bd.tunerOrder v
  match order.find? fun t => bd.fits t v.key v.paddedOpen v.paddedClose with
  | some t => .placed true t v.paddedOpen v.paddedClose v.key
  | none => bd.placeTrimmed v order

/-- A showing's key, eligible set and clipped windows (R108, R109). -/
def triedShowing (passTime : Nat) (v : Showing) (prePad postPad : Nat) (r : Route) : Tried :=
  { key := r.key, eligible := r.eligible, paddedOpen := max (paddedStart v prePad) passTime,
    paddedClose := paddedEnd v postPad, coreOpen := max v.start passTime, coreClose := coreEnd v }

/-- One showing tried, with its channel's route (R109 to R113). A showing that starts at the top of station time with pre-pad 0
has an empty padded window before any clipping. R109 makes it LAPSED, while R115 says that no showing is LAPSED with the clock
invalid; the model follows R109 (DESIGN CHOICE, unsafe, log entry 25). -/
def Board.tryShowing (bd : Board) (v : Showing) (prePad postPad : Nat) (route : Option Route) : Trial :=
  match route with
  | none => .unreachable
  | some r =>
    if r.eligible.order.isEmpty then .unreachable
    else
      let w := triedShowing bd.passTime v prePad postPad r
      if w.paddedClose ≤ w.paddedOpen then .lapsed else bd.place w

/-- The outcome of a booking none of whose showings was placed (R115). -/
def unplacedVerdict (primary : Trial) (alternative : Option Trial) : Verdict :=
  if primary = .notFitted ∨ alternative = some .notFitted then .clashed
  else if primary = .unreachable then .unreachable
  else .lapsed

/-- The verdict of the alternative, or of neither showing (R114, R115). -/
def alternativeVerdict (primary : Trial) (alternative : Option Trial) : Verdict × Option MuxKey :=
  match alternative with
  | some (.placed _ t a c key) => (.placed ⟨.onAlternative, t, a, c⟩, some key)
  | some .notFitted | some .unreachable | some .lapsed | none => (unplacedVerdict primary alternative, none)

/-- The evaluation of a SCHEDULED booking: its outcome, and the key it is placed under (R109 to R115). The alternative is
tried when the primary is not placed. -/
def Board.evaluate (bd : Board) (b : Booking) (route : Nat → Option Route) : Verdict × Option MuxKey :=
  match bd.tryShowing b.primary b.prePad b.postPad (route b.primary.channel) with
  | .placed full t a c key => (.placed ⟨if full then .placed else .trimmed, t, a, c⟩, some key)
  | .notFitted =>
    alternativeVerdict .notFitted (b.alternative.map fun v => bd.tryShowing v b.prePad b.postPad (route v.channel))
  | .unreachable =>
    alternativeVerdict .unreachable (b.alternative.map fun v => bd.tryShowing v b.prePad b.postPad (route v.channel))
  | .lapsed =>
    alternativeVerdict .lapsed (b.alternative.map fun v => bd.tryShowing v b.prePad b.postPad (route v.channel))

end Sys2Proof.Machine
end

