-- ==== Sys2Proof/Machine/Merit.lean ====
section
/-! DEFINITION. Merit (chapter 6): factors, weighted sum, saturation and placement order. -/

namespace Sys2Proof.Machine

/-- F2, the origin class (R88). -/
def originClass (b : Booking) : Int :=
  match b.origin with
  | .manual => 2
  | .series => if b.isRepeat then 0 else 1

/-- F3, second chance (R87). -/
def secondChance (b : Booking) : Int := if b.alternative.isSome then 1 else 0

/-- F4, length in whole minutes (R87). -/
def lengthMinutes (b : Booking) : Int := (b.primary.duration / 60 : Nat)

/-- The exact weighted sum (R91). -/
def exactMerit (p : Policy) (b : Booking) : Int :=
  p.w1 * (b.priority : Int) + p.w2 * originClass b + p.w3 * secondChance b + p.w4 * lengthMinutes b

/-- Saturation to a signed 16-bit range (R91). -/
def saturateMerit (z : Int) : Int := max (-32768) (min 32767 z)

/-- The place of a booking in the order, with its merit and merit-clamped indicator (R91). -/
def orderEntry (p : Policy) (h : Handle) (b : Booking) : OrderEntry :=
  let exact := exactMerit p b
  { handle := h, merit := saturateMerit exact, clamped := saturateMerit exact != exact }

/-- An order entry with the padded start of its primary showing, the second key of the order (R93). -/
structure Ranked where
  entry : OrderEntry
  padded : Nat
deriving DecidableEq, Repr

/-- The first comes before the second: higher merit, then earlier padded start, then lower slot (R93). -/
def comesBefore (x y : Ranked) : Bool :=
  if x.entry.merit = y.entry.merit then
    if x.padded = y.padded then decide (x.entry.handle.slot < y.entry.handle.slot) else decide (x.padded < y.padded)
  else decide (y.entry.merit < x.entry.merit)

/-- Inserts into a list in placement order. -/
def insertRanked (x : Ranked) : List Ranked → List Ranked
  | [] => [x]
  | y :: ys => if comesBefore y x then y :: insertRanked x ys else x :: y :: ys

/-- A list put into placement order. -/
def sortRanked : List Ranked → List Ranked
  | [] => []
  | x :: xs => insertRanked x (sortRanked xs)

/-- The SCHEDULED bookings with their ranks (R92). -/
def ranked (s : State) : List Ranked :=
  ((occupied s).filter fun e => e.2.state == .scheduled).map fun e =>
    ⟨orderEntry s.policy e.1 e.2, paddedStart e.2.primary e.2.prePad⟩

/-- The placement order (R93). -/
def placementOrder (s : State) : List OrderEntry := (sortRanked (ranked s)).map fun r => r.entry

end Sys2Proof.Machine
end

