-- ==== Sys2Proof/Machine/Planner.lean ====
section
/-! DEFINITION. The Clash Planner (chapter 7): the events of a pass, PLAN_NOW, READ_PLANNER, READ_PLAN. -/

namespace Sys2Proof.Machine

/-! ### Step 0 (R104, R105) -/

/-- The pass time: now, and 0 while the clock is invalid (R104). -/
def passTimeNow (s : State) : Nat := if s.clock.valid then now s else 0

/-- The occupant of a FIRM hold (R43). -/
def holdOccupants (s : State) (passTime : Nat) : List Occupant :=
  [Tuner.tuner0, Tuner.tuner1].filterMap fun t =>
    (firmHold s t).map fun h => { tuner := t, openAt := passTime, closeAt := none, key := h.key }

/-- A pin: the occupant of a STARTING or RECORDING booking (R105). -/
def pinOf (passTime : Nat) (b : Booking) : Option Occupant :=
  if b.state.isRunning then
    b.running.map fun r =>
      { tuner := r.tuner, openAt := max r.actualOpen passTime, closeAt := some r.closePoint, key := r.key }
  else none

/-- Step 0: a pass begins (R104). -/
def beginPass (s : State) : State :=
  let passTime := passTimeNow s
  let order := placementOrder s
  { s with
    planner :=
      { s.planner with
        stale := false
        pass :=
          some
            { streamLimit := s.policy.streamLimit
              order := order
              occupants := holdOccupants s passTime ++ (occupied s).filterMap fun e => pinOf passTime e.2
              results := [] }
        passTime := some passTime
        stepsDone := 0
        stepsTotal := order.length
        lastEvaluated := none } }

/-! ### What planner event is due (R101, R102, R106, R118 to R120) -/

/-- The next planner event abandons the pass (R118). -/
def abandonDue (s : State) : Bool :=
  s.planner.pass.isSome && s.policy.mode == .auto && s.planner.stale && s.planner.abandoned < Config.abandonLimit

/-- A planner event that begins a pass is due (R101). -/
def beginDue (s : State) : Bool := s.planner.pass.isNone && s.policy.mode == .auto && s.planner.stale

/-- STEP_0 (R101, R104). -/
def execStep0 (s : State) : Out := if beginDue s then .next (beginPass s) else .next s

/-- PASS_ABANDON: the pass record is discarded, the abandonment counted, and a new pass begun (R118). -/
def execPassAbandon (s : State) : Out :=
  if abandonDue s then
    .next (beginPass { s with planner := { s.planner with abandoned := s.planner.abandoned + 1 } })
  else .next s

/-! ### Booking steps (R106, R116) -/

/-- The board a booking step judges by. -/
def boardOf (s : State) (p : PassRecord) : Board :=
  { occupants := p.occupants, limit := p.streamLimit, passTime := s.planner.passTime.getD 0 }

/-- The result a step records for a booking it evaluates (R116). -/
def stepResult (s : State) (p : PassRecord) (e : OrderEntry) (b : Booking) : StepResult :=
  { handle := e.handle
    evaluation :=
      { verdict := ((boardOf s p).evaluate b (resolve s)).1, stamp := b.version, merit := e.merit,
        clamped := e.clamped } }

/-- The occupant a placed booking becomes (R116). -/
def placedOccupant (v : Verdict × Option MuxKey) : List Occupant :=
  match v with
  | (.placed q, some key) => [{ tuner := q.tuner, openAt := q.openAt, closeAt := some q.closeAt, key := key }]
  | _ => []

/-- The pass record after the step of an order entry (R106): a SCHEDULED booking is evaluated, a running one pinned. -/
def stepRecord (s : State) (p : PassRecord) (e : OrderEntry) : PassRecord :=
  match bookingOf s e.handle with
  | none => p
  | some b =>
    match b.state with
    | .scheduled =>
      { p with
        occupants := p.occupants ++ placedOccupant ((boardOf s p).evaluate b (resolve s))
        results := p.results ++ [stepResult s p e b] }
    | .starting | .recording =>
      { p with occupants := p.occupants ++ (pinOf (s.planner.passTime.getD 0) b).toList }
    | .completed | .aborted | .failed | .missed => p

/-- BOOKING_STEP (R106). With no step due, nothing is taken. -/
def execBookingStep (s : State) : Out :=
  match s.planner.pass with
  | none => .next s
  | some p =>
    if abandonDue s then .next s
    else if s.planner.stepsDone < s.planner.stepsTotal then
      match p.order[s.planner.stepsDone]? with
      | none => .next s
      | some e =>
        .next
          { s with
            planner :=
              { s.planner with
                pass := some (stepRecord s p e)
                stepsDone := s.planner.stepsDone + 1
                lastEvaluated := some e.handle } }
    else .next s

/-! ### Install (R120 to R122) -/

def isClashed (o : Option Evaluation) : Bool :=
  match o with
  | some e => e.verdict == .clashed
  | none => false

/-- A booking with a result written: the installed placement whole, and its clash mark (R120, R121). -/
def writeResult (e : Evaluation) (b : Booking) : Booking :=
  { b with
    installed := some e
    clashMark :=
      if isClashed (some e) then
        if isClashed b.installed then b.clashMark else true
      else if isClashed b.installed then false
      else b.clashMark }

/-- The result the pass recorded for a handle. -/
def resultFor (p : PassRecord) (h : Handle) : Option Evaluation :=
  (p.results.find? fun r => r.handle == h).map fun r => r.evaluation

/-- A booking after an install: its result written while it is SCHEDULED, and held back cleared (R120, R121). -/
def installInto (p : PassRecord) (h : Handle) (b : Booking) : Booking :=
  let b1 : Booking :=
    match resultFor p h with
    | some e => if b.state = .scheduled then writeResult e b else b
    | none => b
  { b1 with heldBack := false }

/-- The booking slots after an install. -/
def installSlots (p : PassRecord) (slots : List BookingSlot) : List BookingSlot :=
  slots.zipIdx.map fun (sl, i) => { sl with booking := sl.booking.map (installInto p ⟨i, sl.lastTag⟩) }

/-- The install: results written, the pass ended, the revision raised and the abandonment count cleared (R120 to R122). -/
def installPass (s : State) (p : PassRecord) : State :=
  { s with
    bookings := installSlots p s.bookings
    planner :=
      { s.planner with pass := none, revision := (s.planner.revision + 1) % 65536, abandoned := 0 } }

/-- INSTALL (R120). With no install due, nothing is taken. -/
def execInstall (s : State) : Out :=
  match s.planner.pass with
  | none => .next s
  | some p =>
    if abandonDue s then .next s
    else if s.planner.stepsTotal ≤ s.planner.stepsDone then .next (settle (installPass s p))
    else .next s

/-! ### PLAN_NOW and READ_PLANNER (R103, R124) -/

/-- PLAN_NOW at its completion event (R103). -/
def takePlanNow (s : State) : State × Answer :=
  match s.planner.pass with
  | none => accept (beginPass s) false (boolByte true ++ twoBytes s.planner.revision)
  | some _ => accept s false (boolByte false ++ twoBytes s.planner.revision)

/-- PLAN_NOW (R103). -/
def execPlanNow (s : State) : Out :=
  onRequest s fun
    | .planNow => some (takePlanNow s)
    | _ => none

/-- The results of READ_PLANNER (R124). -/
def plannerBytes (s : State) : List Byte :=
  boolByte s.planner.pass.isSome ++ oneByte (modeCode s.policy.mode) ++ boolByte s.planner.stale ++
    twoBytes s.planner.revision ++ presentFourBytes s.planner.passTime ++ oneByte s.planner.stepsDone ++
    oneByte s.planner.stepsTotal ++ presentHandleBytes s.planner.lastEvaluated ++ oneByte s.planner.abandoned

/-- READ_PLANNER (R124). -/
def execReadPlanner (s : State) : Out :=
  onRequest s fun
    | .readPlanner => some (accept s false (plannerBytes s))
    | _ => none

/-! ### READ_PLAN (R125) -/

/-- A plan item with the open it is listed by. -/
structure Listed where
  openAt : Nat
  item : PlanItem
deriving DecidableEq, Repr

/-- Inserts after every item of an equal or earlier open. -/
def insertListed (x : Listed) : List Listed → List Listed
  | [] => [x]
  | y :: ys => if y.openAt ≤ x.openAt then y :: insertListed x ys else x :: y :: ys

/-- Items in ascending order of open; items of one open keep the slot order they are given in. -/
def sortListed (xs : List Listed) : List PlanItem :=
  (xs.foldl (fun acc x => insertListed x acc) []).map fun x => x.item

/-- The item of the FIRM hold. -/
def holdItem (s : State) (t : Tuner) : List PlanItem :=
  match firmHold s t with
  | some h => [{ handle := none, openAt := h.takenAt, closeAt := none, key := some h.key, outcome := 0 }]
  | none => []

/-- The items of running bookings. -/
def runningItems (s : State) (t : Tuner) : List Listed :=
  (runningOn s t).filterMap fun e =>
    e.2.running.map fun r =>
      ⟨r.actualOpen,
        { handle := some e.1, openAt := some r.actualOpen, closeAt := some r.closePoint, key := some r.key,
          outcome := runningOutcomeCode }⟩

/-- The key of the showing a placement uses, resolved now. -/
def placementKey (s : State) (b : Booking) (p : Placement) : Option MuxKey :=
  ((showingNamed b p.kind.used).bind fun v => resolve s v.channel).map fun r => r.key

/-- The items of current placements that open at or after an instant. -/
def placementItems (s : State) (t : Tuner) (fromTime : Nat) : List Listed :=
  (occupied s).filterMap fun e =>
    match currentPlacement e.2 with
    | some p =>
      if p.tuner = t ∧ fromTime ≤ p.openAt then
        some
          ⟨p.openAt,
            { handle := some e.1, openAt := some p.openAt, closeAt := some p.closeAt, key := placementKey s e.2 p,
              outcome := placedCode p.kind }⟩
      else none
    | none => none

/-- Every item of a tuner's installed plan, in order. -/
def planItems (s : State) (t : Tuner) (fromTime : Nat) : List PlanItem :=
  holdItem s t ++ sortListed (runningItems s t) ++ sortListed (placementItems s t fromTime)

/-- The results of READ_PLAN: revision, stale flag, more indication, count, and at most six items (R125, R192). -/
def planBytes (s : State) (items : List PlanItem) : List Byte :=
  twoBytes s.planner.revision ++ boolByte s.planner.stale ++ boolByte (decide (Config.planPlaces < items.length)) ++
    oneByte (items.take Config.planPlaces).length ++ (items.take Config.planPlaces).flatMap planItemBytes

/-- READ_PLAN at its completion event (R125). -/
def takeReadPlan (s : State) (tuner fromTime : Nat) : State × Answer :=
  match tunerOf tuner with
  | some t => accept s false (planBytes s (planItems s t fromTime))
  | none => refuse s .badValue

/-- READ_PLAN (R125). -/
def execReadPlan (s : State) : Out :=
  onRequest s fun
    | .readPlan tuner fromTime => some (takeReadPlan s tuner fromTime)
    | _ => none

end Sys2Proof.Machine
end

