-- ==== Sys2Proof/Machine/Dispatch.lean ====
section
/-! DEFINITION. One arm for each command of the opcode table. -/

namespace Sys2Proof.Machine

/-- The effect of a command on everything but the queue. -/
def exec (i : Instr) (s : State) : Host.Outcome State Fault Refusal :=
  match i with
  | .powerOnReset => Sys2Proof.Machine.execPowerOnReset s
  | .portReset => Sys2Proof.Machine.execPortReset s
  | .hostawakeChange level => Sys2Proof.Machine.execHostawakeChange level s
  | .transactionStart => Sys2Proof.Machine.execTransactionStart s
  | .frameEnd mosi spare => Sys2Proof.Machine.execFrameEnd mosi spare s
  | .addBooking => Sys2Proof.Machine.execAddBooking s
  | .amendBooking => Sys2Proof.Machine.execAmendBooking s
  | .withdraw => Sys2Proof.Machine.execWithdraw s
  | .readBooking => Sys2Proof.Machine.execReadBooking s
  | .list => Sys2Proof.Machine.execList s
  | .find => Sys2Proof.Machine.execFind s
  | .setChannel => Sys2Proof.Machine.execSetChannel s
  | .removeChannel => Sys2Proof.Machine.execRemoveChannel s
  | .readChannel => Sys2Proof.Machine.execReadChannel s
  | .setBand => Sys2Proof.Machine.execSetBand s
  | .hold => Sys2Proof.Machine.execHold s
  | .release => Sys2Proof.Machine.execRelease s
  | .readHolds => Sys2Proof.Machine.execReadHolds s
  | .addLink => Sys2Proof.Machine.execAddLink s
  | .amendLink => Sys2Proof.Machine.execAmendLink s
  | .setLinkStatus => Sys2Proof.Machine.execSetLinkStatus s
  | .removeLinkKeep => Sys2Proof.Machine.execRemoveLinkKeep s
  | .removeLinkWithdraw => Sys2Proof.Machine.execRemoveLinkWithdraw s
  | .readLink => Sys2Proof.Machine.execReadLink s
  | .listLinks => Sys2Proof.Machine.execListLinks s
  | .announce => Sys2Proof.Machine.execAnnounce s
  | .matcherEvent => Sys2Proof.Machine.execMatcherEvent s
  | .planNow => Sys2Proof.Machine.execPlanNow s
  | .readPlanner => Sys2Proof.Machine.execReadPlanner s
  | .readPlan => Sys2Proof.Machine.execReadPlan s
  | .step0 => Sys2Proof.Machine.execStep0 s
  | .bookingStep => Sys2Proof.Machine.execBookingStep s
  | .passAbandon => Sys2Proof.Machine.execPassAbandon s
  | .install => Sys2Proof.Machine.execInstall s
  | .confirm => Sys2Proof.Machine.execConfirm s
  | .decline => Sys2Proof.Machine.execDecline s
  | .stop => Sys2Proof.Machine.execStop s
  | .openEvent slot => Sys2Proof.Machine.execOpenEvent slot s
  | .confirmExpiry slot => Sys2Proof.Machine.execConfirmExpiry slot s
  | .closeEvent slot => Sys2Proof.Machine.execCloseEvent slot s
  | .lapseEvent slot => Sys2Proof.Machine.execLapseEvent slot s
  | .tick => Sys2Proof.Machine.execTick s
  | .setTime => Sys2Proof.Machine.execSetTime s
  | .setTrim => Sys2Proof.Machine.execSetTrim s
  | .readClock => Sys2Proof.Machine.execReadClock s
  | .setPolicy => Sys2Proof.Machine.execSetPolicy s
  | .readPolicy => Sys2Proof.Machine.execReadPolicy s
  | .readCauses => Sys2Proof.Machine.execReadCauses s
  | .setRouting => Sys2Proof.Machine.execSetRouting s
  | .ackClash => Sys2Proof.Machine.execAckClash s
  | .clearAll => Sys2Proof.Machine.execClearAll s
  | .crystalCount => Sys2Proof.Machine.execCrystalCount s
  | .portresetFall => Sys2Proof.Machine.execPortresetFall s

end Sys2Proof.Machine
end

