-- ==== Sys2Proof/Safety.lean ====
section
/-! DEFINITION. What holds of the part in every state a run reaches: the laws the rules state of the tables, the clock, the
planner, the lines and the tuners, each as a predicate on one state, and what one event may do to a booking. -/

namespace Sys2Proof.Machine

/-! ### Fields of one record -/

/-- A stored showing lies in its ranges (section 6.3, R4). -/
def ShowingWf (v : Showing) : Prop :=
  (1 ≤ v.channel ∧ v.channel ≤ 9999) ∧ (60 ≤ v.duration ∧ v.duration ≤ 86400) ∧ v.start ≤ Config.topOfTime

/-- The requested fields of a booking lie in their ranges (section 1.1, R4, R5). -/
def FieldsWf (b : Booking) : Prop :=
  ShowingWf b.primary ∧ (∀ v ∈ b.alternative.toList, ShowingWf v) ∧ b.prePad ≤ 7200 ∧ b.postPad ≤ 7200 ∧
    b.priority ≤ 7 ∧ b.episode ≠ some 0

/-- The finish reasons a state admits (R9). -/
def reasonFits : BookingState → Option FinishReason → Bool
  | .aborted, some .stopped | .aborted, some .withdrawn => true
  | .failed, some .declined | .failed, some .noConfirm => true
  | .scheduled, none | .starting, none | .recording, none | .completed, none | .missed, none => true
  | _, _ => false

/-- The optional fields of a booking follow its state (R9, R129), and so do its confirm timer (R129) and its reached
close point (R133). -/
def PresenceWf (b : Booking) : Prop :=
  (b.running.isNone ↔ b.state = .scheduled ∨ b.state = .missed) ∧ b.startStamp.isSome = b.running.isSome ∧
    b.endStamp.isSome = b.state.isFinished ∧ reasonFits b.state b.finishReason = true ∧
    (b.confirmTimer.isSome ↔ b.state = .starting) ∧ (b.closeReached = true → b.state.isRunning = true)

/-- Merit lies in a signed 16-bit range (R91). -/
def MeritInRange (m : Int) : Prop := -32768 ≤ m ∧ m ≤ 32767

/-- The counts of a booking lie in their ranges (section 1.1, R91, R145); a SCHEDULED booking has used no extension
(R129). -/
def CountsWf (b : Booking) : Prop :=
  b.version ≤ 255 ∧ b.extensionUsed % 300 = 0 ∧ b.extensionUsed ≤ 3600 ∧
    (b.state = .scheduled → b.extensionUsed = 0) ∧
    ∀ e ∈ b.installed.toList, e.stamp ≤ 255 ∧ MeritInRange e.merit

/-- The table of bookings: 128 slots, tags of one byte, an occupied slot's tag not 0 (R1, R2). -/
def BookingSlotsWf (s : State) : Prop :=
  s.bookings.length = Config.bookingSlots ∧
    ∀ sl ∈ s.bookings, sl.lastTag ≤ 255 ∧ (sl.booking.isSome = true → 1 ≤ sl.lastTag)

/-- The optional fields of every booking follow its state. -/
def PresenceKept (s : State) : Prop := ∀ e ∈ occupied s, PresenceWf e.2

/-- The counts of every booking lie in their ranges, and so do the merits and stamps that a pass in progress holds. -/
def CountsKept (s : State) : Prop :=
  (∀ e ∈ occupied s, CountsWf e.2) ∧
    ∀ p ∈ s.planner.pass.toList, (∀ e ∈ p.order, MeritInRange e.merit) ∧
      ∀ q ∈ p.results, q.evaluation.stamp ≤ 255 ∧ MeritInRange q.evaluation.merit

/-! ### The stores -/

/-- A link's fields lie in their ranges, and its history holds at most 8 ids, none twice (R49, R58). -/
def LinkWf (l : Link) : Prop :=
  l.priority ≤ 7 ∧ l.prePad ≤ 7200 ∧ l.postPad ≤ 7200 ∧ 1 ≤ l.keepAhead ∧ l.keepAhead ≤ 8 ∧
    l.history.length ≤ Config.historyPlaces ∧ l.history.Nodup

/-- The Link Table: 32 slots, tags of one byte, every record in range (R48, R49, R58). -/
def LinksWf (s : State) : Prop :=
  s.links.length = Config.linkSlots ∧
    (∀ sl ∈ s.links, sl.lastTag ≤ 255 ∧ (sl.link.isSome = true → 1 ≤ sl.lastTag)) ∧
    ∀ e ∈ occupiedLinks s, LinkWf e.2

/-- A queued announcement is one that validation lets through (R62). -/
def AnnouncementWf (a : Announcement) : Prop :=
  ShowingWf (announcedShowing a) ∧ a.series ≠ some 0 ∧ a.episode ≠ some 0

/-- The Announcement Queue holds at most 16 announcements, each validated (R62, R63). -/
def QueueWf (s : State) : Prop := s.queue.length ≤ Config.queuePlaces ∧ ∀ a ∈ s.queue, AnnouncementWf a

/-- The Channel Map holds at most 256 entries, one for a channel, each in range (R25). -/
def MapWf (s : State) : Prop :=
  s.map.entries.length ≤ Config.mapPlaces ∧ (s.map.entries.map fun e => e.channel).Pairwise (· < ·) ∧
    ∀ e ∈ s.map.entries, (1 ≤ e.channel ∧ e.channel ≤ 9999) ∧ 1 ≤ e.mux ∧ e.mux ≤ 4095

/-- The stores of the part are well formed. -/
def StoresWf (s : State) : Prop :=
  BookingSlotsWf s ∧ (∀ e ∈ occupied s, FieldsWf e.2) ∧ LinksWf s ∧ QueueWf s ∧ MapWf s ∧
    ∀ q ∈ s.port.inProcess.toList, q.request.wellFormed = true

/-! ### Clock, policy and planner -/

/-- The ranges of the Station Clock (section 9.1, R158). -/
def ClockWf (c : Clock) : Prop :=
  c.seconds ≤ Config.topOfTime ∧ c.divider < c.secondLength ∧ 32000 ≤ c.secondLength ∧ c.secondLength ≤ 33535 ∧
    (-256 ≤ c.trim ∧ c.trim ≤ 255) ∧ (-128 ≤ c.slew ∧ c.slew ≤ 128) ∧ (-1 ≤ c.secondSlew ∧ c.secondSlew ≤ 1) ∧
    c.elapsed < twoTo32

/-- The ranges of the policy (section 10.5). -/
def PolicyWf (p : Policy) : Prop :=
  (∀ w ∈ [p.w1, p.w2, p.w3, p.w4], -128 ≤ w ∧ w ≤ 127) ∧ (1 ≤ p.streamLimit ∧ p.streamLimit ≤ 3) ∧
    p.wakeLead ≤ 1800 ∧ p.yieldLead ≤ 600 ∧ 10 ≤ p.confirmTimeout ∧ p.confirmTimeout ≤ 255

/-- A pass record agrees with the step counts: one place of the order for each step, no slot twice, and at most one result
for each step taken, of a booking of the order (R93, R104, R106, R116). -/
def PassWf (done total : Nat) (p : PassRecord) : Prop :=
  p.order.length = total ∧ (p.order.map fun e => e.handle.slot).Nodup ∧ p.results.length ≤ done ∧
    (∀ r ∈ p.results, r.handle ∈ p.order.map fun e => e.handle) ∧ 1 ≤ p.streamLimit ∧ p.streamLimit ≤ 3

/-- The ranges of the Clash Planner, and its pass record (section 7.1, R117, R122). -/
def PlannerWf (p : Planner) : Prop :=
  p.abandoned ≤ Config.abandonLimit ∧ p.revision ≤ 65535 ∧ p.stepsDone ≤ p.stepsTotal ∧ p.stepsTotal ≤ 128 ∧
    (p.pass.isSome = true → p.passTime.isSome = true) ∧ ∀ r ∈ p.pass.toList, PassWf p.stepsDone p.stepsTotal r

/-- The policy and the planner lie in their ranges, with 128 booking slots. -/
def PlanningWf (s : State) : Prop :=
  PolicyWf s.policy ∧ PlannerWf s.planner ∧ s.bookings.length = Config.bookingSlots

/-! ### Uniqueness and the links of bookings -/

/-- The pair of one showing of a booking (R7). -/
def pairNamed (b : Booking) (u : ShowingUsed) : Option (Nat × Nat) := optionPair (showingNamed b u)

/-- Primary and alternative. -/
def bothShowings : List ShowingUsed := [.primary, .alternative]

/-- No two showings of occupied slots carry the same pair (R7). -/
def PairsUnique (s : State) : Prop :=
  ∀ e ∈ occupied s, ∀ f ∈ occupied s, ∀ u ∈ bothShowings, ∀ v ∈ bothShowings, (pairNamed e.2 u).isSome = true →
    pairNamed e.2 u = pairNamed f.2 v → e.1.slot = f.1.slot ∧ u = v

/-- No two occupied link slots carry the same series id (R50). -/
def SeriesUnique (s : State) : Prop :=
  ∀ e ∈ occupiedLinks s, ∀ f ∈ occupiedLinks s, e.2.seriesId = f.2.seriesId → e.1.slot = f.1.slot

/-- The pairs of the Booking Table and the series ids of the Link Table are unique. -/
def KeysUnique (s : State) : Prop := PairsUnique s ∧ SeriesUnique s

/-- A booking's link reference names a current link (R53). -/
def LinksResolve (s : State) : Prop :=
  ∀ e ∈ occupied s, ∀ h ∈ e.2.link.toList, (linkOf s h).isSome = true

/-- A live booking of a link that carries an episode id (R53, R58). -/
def isLiveEpisode (h : Handle) (id : Nat) (b : Booking) : Bool :=
  b.state.isLive && b.link == some h && b.episode == some id

/-- An episode id that a live booking with a link reference carries is in that link's history, and no two live bookings
of one link carry the same id (R58, R76). -/
def EpisodesKept (s : State) : Prop :=
  ∀ e ∈ occupied s, ∀ h ∈ e.2.link.toList, ∀ id ∈ e.2.episode.toList, isLiveEpisode h id e.2 = true →
    (∀ l ∈ (linkOf s h).toList, id ∈ l.history) ∧
      ∀ f ∈ occupied s, isLiveEpisode h id f.2 = true → f.1.slot = e.1.slot

/-- What the Link Table keeps of the bookings of its links (R53, R58). -/
def LinksKept (s : State) : Prop := LinksResolve s ∧ EpisodesKept s

/-! ### The tuners (R134) -/

/-- The streams of a tuner: its running bookings whose close point has not been reached, and its FIRM hold. -/
def streamCount (s : State) (t : Tuner) : Nat := (countedOn s t none).length + (if (firmHold s t).isSome then 1 else 0)

/-- The law of the tuners: the bookings that run on a tuner with their close point not reached carry one key, and with the
FIRM hold they are at most three; the FIRM hold carries the key of every booking that runs on its tuner (R39, R134). -/
def TunersLawful (s : State) : Prop :=
  ∀ t, streamCount s t ≤ Config.streamPlaces ∧
    (∀ e ∈ countedOn s t none, ∀ f ∈ countedOn s t none, runningKey e.2 = runningKey f.2) ∧
    ∀ hold ∈ (firmHold s t).toList, ∀ e ∈ runningOn s t, runningKey e.2 = some hold.key

/-! ### Windows and timers -/

/-- The confirm timers lie in their ranges, and no booking is STARTING for more elapsed seconds than the timeout of its
confirm timer (R129, R138). -/
def TimersKept (s : State) : Prop :=
  s.clock.elapsed < twoTo32 ∧ (10 ≤ s.policy.confirmTimeout ∧ s.policy.confirmTimeout ≤ 255) ∧
    ∀ e ∈ occupied s, ∀ t ∈ e.2.confirmTimer.toList,
      t.entry < twoTo32 ∧ 10 ≤ t.timeout ∧ t.timeout ≤ 255 ∧
        (e.2.state = .starting → advanceSince s t.entry ≤ t.timeout)

/-- The window of a placement against the showing it uses: it opens no earlier than the padded start, closes between the
core end and the padded end, and opens before it closes (R120). -/
def WindowFits (b : Booking) (p : Placement) : Prop :=
  ∃ v ∈ (showingNamed b p.kind.used).toList, paddedStart v b.prePad ≤ p.openAt ∧ coreEnd v ≤ p.closeAt ∧
    p.closeAt ≤ paddedEnd v b.postPad ∧ p.openAt < p.closeAt

/-- The placement of a verdict, when it is one. -/
def Verdict.placement : Verdict → Option Placement
  | .placed p => some p
  | .clashed | .lapsed | .unreachable => none

/-- Every current placement fits its showing (R120). -/
def CurrentFits (s : State) : Prop :=
  ∀ e ∈ occupied s, ∀ p ∈ (currentPlacement e.2).toList, WindowFits e.2 p

/-- Every result of a pass in progress that an install would make current fits its showing (R120, R6). -/
def ResultsFit (s : State) : Prop :=
  ∀ r ∈ s.planner.pass.toList, ∀ q ∈ r.results, ∀ b ∈ (bookingOf s q.handle).toList, b.state = .scheduled →
    q.evaluation.stamp = b.version → ∀ p ∈ q.evaluation.verdict.placement.toList, WindowFits b p

/-- The placements keep to their showings, with the planner in its ranges. -/
def PlacementsFit (s : State) : Prop := PlanningWf s ∧ CurrentFits s ∧ ResultsFit s

/-- The close point of a running booking whose close point has not been reached is the one R133 computes, its post allowance
is at most 7,200 s, and the clock has not reached it (R129, R130, R133). -/
def ClosePointsKept (s : State) : Prop :=
  ∀ e ∈ occupied s, e.2.state.isRunning = true → ∀ r ∈ e.2.running.toList,
    (showingNamed e.2 r.used).isSome = true ∧ r.postAllowance ≤ 7200 ∧
      (e.2.closeReached = false → r.closePoint = closePointOf e.2 r ∧ reached s r.closePoint = false)

/-- The windows of the part: stores and placements as they must be, and the close points of running bookings. -/
def WindowsKept (s : State) : Prop := StoresWf s ∧ PlacementsFit s ∧ ClosePointsKept s

/-- The levels are those the rules derive from the rest of the state (R150, R151, R152, R182, R184, R185). -/
def OutputsSettled (s : State) : Prop := s.out = deriveOutputs s

/-! ### What one event may do to a booking -/

/-- The moves of a booking's state in one event (R8, and the table of section 1.6). -/
def stateMoves : BookingState → BookingState → Bool
  | .scheduled, .starting | .scheduled, .missed => true
  | .starting, .recording | .starting, .aborted | .starting, .failed => true
  | .recording, .completed | .recording, .aborted => true
  | a, b => a == b

/-- What stays of a booking for its occupancy, and of its running placement once it is written (section 1.1, R8, R129): the
state moves by an edge of R8 or stays. -/
def staysTheSame (b c : Booking) : Prop :=
  stateMoves b.state c.state = true ∧ c.origin = b.origin ∧ c.isRepeat = b.isRepeat ∧ c.episode = b.episode ∧
    (∀ r ∈ b.running.toList, ∃ q ∈ c.running.toList, q.tuner = r.tuner ∧ q.key = r.key ∧ q.used = r.used ∧
      q.actualOpen = r.actualOpen) ∧
    (b.startStamp.isSome = true → c.startStamp = b.startStamp) ∧ (b.endStamp.isSome = true → c.endStamp = b.endStamp)

/-! ### Requests and replies -/

/-- A request is in process; its reply is discarded when `discard` says so (R174, R181). -/
def Taking (s : State) (r : Request) (discard : Bool) : Prop := s.port.inProcess = some ⟨r, discard⟩

/-- SS and the port after a reply became ready: a transaction in progress takes note of it (R172). -/
def phaseOnReply (discard : Bool) : LinkPhase → LinkPhase
  | .transaction t => .transaction { t with replaced := t.replaced || !discard }
  | .idle => .idle
  | .ignored => .ignored
  | .cutOff => .cutOff

/-- The port of `t` is that of `s` after the completion event of the request in process, with this reply (R174, R181). -/
def Replied (s t : State) (kind : Byte) (discard : Bool) (code : ReplyCode) (results : List Byte) : Prop :=
  t.port =
    { s.port with
      inProcess := none
      pendingReply := if discard then s.port.pendingReply else some ⟨kind, code, results⟩
      replyLost := s.port.replyLost || (!discard && s.port.pendingReply.isSome)
      phase := phaseOnReply discard s.port.phase }

/-- The command that is the completion event of a request (R174). -/
def completionOf : Request → Instr
  | .addBooking _ => .addBooking
  | .amendBooking _ _ => .amendBooking
  | .withdraw _ => .withdraw
  | .readBooking _ => .readBooking
  | .list _ => .list
  | .find _ _ => .find
  | .setChannel _ _ _ => .setChannel
  | .removeChannel _ => .removeChannel
  | .readChannel _ => .readChannel
  | .setBand _ _ => .setBand
  | .hold _ _ _ => .hold
  | .release _ => .release
  | .readHolds => .readHolds
  | .addLink _ _ _ => .addLink
  | .amendLink _ _ => .amendLink
  | .setLinkStatus _ _ => .setLinkStatus
  | .removeLink _ disposal => if disposal = 1 then .removeLinkWithdraw else .removeLinkKeep
  | .readLink _ => .readLink
  | .listLinks _ _ _ => .listLinks
  | .announce _ => .announce
  | .planNow => .planNow
  | .readPlanner => .readPlanner
  | .readPlan _ _ => .readPlan
  | .confirm _ => .confirm
  | .decline _ => .decline
  | .stop _ => .stop
  | .setTime _ _ _ => .setTime
  | .setTrim _ => .setTrim
  | .readClock => .readClock
  | .setPolicy _ => .setPolicy
  | .readPolicy => .readPolicy
  | .readCauses => .readCauses
  | .setRouting _ => .setRouting
  | .ackClash _ => .ackClash
  | .clearAll => .clearAll

/-- A request is refused with a code, and nothing but the port changes (R3, R176). -/
def RefusedWith (s : State) (r : Request) (discard : Bool) (code : ReplyCode) : Prop :=
  ∃ t, exec (completionOf r) s = .next t ∧ t = { s with port := t.port } ∧ Replied s t (kindOf r) discard code []

/-- A handle that names a booking while it is current (R3). -/
def NamesBooking (s : State) (h : Handle) (b : Booking) : Prop :=
  h.slot ≤ 127 ∧ h.tag ≠ 0 ∧ bookingOf s h = some b

/-- A handle that names a link while it is current (R48). -/
def NamesLink (s : State) (h : Handle) (l : Link) : Prop := h.slot ≤ 31 ∧ h.tag ≠ 0 ∧ linkOf s h = some l

/-- The slots of two booking tables agree but for one. -/
def SlotsAgreeBut (slot : Nat) (s t : State) : Prop := ∀ i, i ≠ slot → t.bookings[i]? = s.bookings[i]?

/-- The slots of two link tables agree but for one. -/
def LinksAgreeBut (slot : Nat) (s t : State) : Prop := ∀ i, i ≠ slot → t.links[i]? = s.links[i]?

/-- The slot of `t` holds this booking, under the tag it had in `s`. -/
def HoldsBooking (s t : State) (slot : Nat) (b : Booking) : Prop := t.bookings[slot]? = some ⟨tagAt s slot, some b⟩

/-- The slot of `t` holds this link, under the tag it had in `s`. -/
def HoldsLink (s t : State) (slot : Nat) (l : Link) : Prop := t.links[slot]? = some ⟨linkTagAt s slot, some l⟩

/-! ### Field values of requests (R4, R5, R49) -/

/-- A showing that R4 does not refuse. -/
def ShowingAccepted (v : Showing) : Prop := (1 ≤ v.channel ∧ v.channel ≤ 9999) ∧ v.duration ≠ 0

/-- A showing with the duration R4 stores. -/
def clampedShowing (v : Showing) : Showing := { v with duration := max 60 (min 86400 v.duration) }

/-- The fields of ADD_BOOKING are not refused (R4, R5). -/
def AddAccepted (f : AddBookingFields) : Prop :=
  ShowingAccepted f.primary ∧ (∀ v ∈ f.alternative.toList, ShowingAccepted v) ∧ f.episode ≠ some 0

/-- The fields ADD_BOOKING stores (R4, R5). -/
def clampedAdd (f : AddBookingFields) : AddBookingFields :=
  { primary := clampedShowing f.primary, alternative := f.alternative.map clampedShowing, episode := f.episode,
    prePad := min 7200 f.prePad, postPad := min 7200 f.postPad, priority := min 7 f.priority,
    follow := f.follow && f.primary.event.isSome }

/-- The fields of AMEND_BOOKING are not refused (R4). -/
def AmendAccepted (f : AmendBookingFields) : Prop :=
  ShowingAccepted f.primary ∧ ∀ v ∈ f.alternative.toList, ShowingAccepted v

/-- The fields AMEND_BOOKING stores, with the showing in use that judges follow (R4, R5). -/
def clampedAmend (used : ShowingUsed) (f : AmendBookingFields) : AmendBookingFields :=
  { primary := clampedShowing f.primary, alternative := f.alternative.map clampedShowing,
    prePad := min 7200 f.prePad, postPad := min 7200 f.postPad, priority := min 7 f.priority,
    follow := f.follow && (match used with
      | .primary => f.primary.event.isSome
      | .alternative => f.alternative.any fun v => v.event.isSome) }

/-- An amend of a running booking that R15 allows: the showing in use, `v`, becomes `w`, which differs in its duration at
most, and the other showing and the pre-pad are as they are stored. -/
def RunningAmend (b : Booking) (used : ShowingUsed) (v w : Showing) (c : AmendBookingFields) : Prop :=
  c.prePad = b.prePad ∧ w = { v with duration := w.duration } ∧
    match used with
    | .primary => c.primary = w ∧ c.alternative = b.alternative
    | .alternative => c.primary = b.primary ∧ c.alternative = some w

/-- A pair stands as a showing of an occupied slot, but for the slot given (R7). -/
def PairStands (s : State) (but : Option Nat) (pair : Option (Nat × Nat)) : Prop :=
  pair.isSome = true ∧
    ∃ e ∈ occupied s, but ≠ some e.1.slot ∧ ∃ u ∈ bothShowings, pairNamed e.2 u = pair

/-- The DUPLICATE check fails for two new showings (R7). -/
def DuplicateShowings (s : State) (but : Option Nat) (primary : Showing) (alternative : Option Showing) : Prop :=
  PairStands s but (pairOf primary) ∨ PairStands s but (optionPair alternative) ∨
    ((pairOf primary).isSome = true ∧ pairOf primary = optionPair alternative)

/-- The link fields that are not refused (R49). -/
def LinkFieldsAccepted (f : LinkFields) : Prop :=
  ((1 ≤ f.preference ∧ f.preference ≤ 9999) ∨ f.preference = 65535) ∧ f.policy ≤ 1

/-- The link fields that are stored (R49). -/
def clampedLink (f : LinkFields) : LinkFields :=
  { f with priority := min 7 f.priority, prePad := min 7200 f.prePad, postPad := min 7200 f.postPad,
           keepAhead := max 1 (min 8 f.keepAhead) }

/-- The handles that LIST and LIST_LINKS return: a count, the first 16 of the matches, and the slot of the 17th, 255 for
none (R19, R57, R192). -/
def listBytes (matched : List Handle) : List Byte :=
  [BitVec.ofNat 8 (min 16 matched.length)] ++
    ((matched.take 16).flatMap fun h => [BitVec.ofNat 8 h.slot, BitVec.ofNat 8 h.tag]) ++
    [match matched[16]? with
      | some h => BitVec.ofNat 8 h.slot
      | none => 255#8]

/-- An announcement that reaches step 3: its pair is in no booking, its link is found and takes it, and the showing has not
ended (R73, R74, R75). -/
def ReachesStepThree (s : State) (a : Announcement) (h : Handle) (l : Link) : Prop :=
  ¬ PairStands s none (some (a.channel, a.event)) ∧ SeriesUnique s ∧ (h, l) ∈ occupiedLinks s ∧
    some l.seriesId = a.series ∧ (l.status = .active ∨ a.premiere = true) ∧
    (∀ c ∈ l.preference.toList, c = a.channel) ∧
    (s.clock.valid = true → s.clock.seconds < satAdd a.start a.duration)

/-- OK, or ADJUSTED when a field was clamped (R176). -/
def acceptedCode (changed : Bool) : ReplyCode := if changed then .adjusted else .ok

/-- A booking as it enters a finished state (R149). -/
def asFinished (s : State) (st : BookingState) (reason : Option FinishReason) (b : Booking) : Booking :=
  { b with state := st, finishReason := reason, endStamp := some s.clock.seconds, confirmTimer := none,
           closeReached := false }

/-- A link slot after the booking `b` failed or was missed: the episode id is out of the history of the link that the
booking names (R60). -/
def withoutEpisode (b : Booking) (slot : Nat) (sl : LinkSlot) : LinkSlot :=
  { sl with
    link := sl.link.map fun l =>
      if b.link = some ⟨slot, sl.lastTag⟩ then
        { l with history := l.history.filter fun id => b.episode != some id }
      else l }

/-- The link slots after a booking failed or was missed (R60). -/
def HistoryRemoved (s t : State) (b : Booking) : Prop :=
  ∀ i, t.links[i]? = (s.links[i]?).map (withoutEpisode b i)

/-- A booking slot after REMOVE_LINK with KEEP: a booking of the link loses its reference (R54). -/
def unlinkedSlot (h : Handle) (sl : BookingSlot) : BookingSlot :=
  { sl with booking := sl.booking.map fun b => if b.link = some h then { b with link := none } else b }

/-- A booking slot after REMOVE_LINK with WITHDRAW: a SCHEDULED booking of the link is freed, another loses its reference
(R55). -/
def withdrawnSlot (h : Handle) (sl : BookingSlot) : BookingSlot :=
  { sl with
    booking :=
      match sl.booking with
      | none => none
      | some b =>
        if b.link = some h then (if b.state = .scheduled then none else some { b with link := none }) else some b }

/-! ### The planner -/

/-- The planner right after step 0 of a pass: the stale flag clear, the pass time, stream limit, order and occupants fixed,
and no step taken (R104, R105, R43). -/
def begunPlanner (s : State) (abandoned : Nat) : Planner :=
  let passTime := if s.clock.valid then s.clock.seconds else 0
  { stale := false, abandoned := abandoned, revision := s.planner.revision
    pass := some
      { streamLimit := s.policy.streamLimit, order := placementOrder s
        occupants :=
          ([Tuner.tuner0, Tuner.tuner1].flatMap fun t =>
            (firmHold s t).toList.map fun h => ⟨t, passTime, none, h.key⟩) ++
          (occupied s).flatMap fun e =>
            if e.2.state = .starting ∨ e.2.state = .recording then
              e.2.running.toList.map fun r => ⟨r.tuner, max r.actualOpen passTime, some r.closePoint, r.key⟩
            else []
        results := [] }
    passTime := some passTime, stepsDone := 0, stepsTotal := (placementOrder s).length, lastEvaluated := none }

/-- A pass in progress is to be abandoned by the next planner event (R118). -/
def Abandoning (s : State) : Prop := s.policy.mode = .auto ∧ s.planner.stale = true ∧ s.planner.abandoned < 3

/-- The outcome of an installed placement is CLASHED; UNPLANNED is not (R121). -/
def WasClashed (b : Booking) : Prop := ∃ e ∈ b.installed.toList, e.verdict = .clashed

/-- The slot holds this booking under the tag given. -/
def SlotHolds (s : State) (slot tag : Nat) (b : Booking) : Prop := s.bookings[slot]? = some ⟨tag, some b⟩

/-! ### The Window Timer -/

/-- The open check passes for a placement of the booking in a slot, whose showing `v` resolves to `route` (R134). -/
def OpensUnder (s : State) (slot : Nat) (b : Booking) (p : Placement) (v : Showing) (route : Route) : Prop :=
  showingNamed b p.kind.used = some v ∧ resolve s v.channel = some route ∧ route.eligible.has p.tuner = true ∧
    s.clock.seconds < p.closeAt ∧ (∀ h ∈ (firmHold s p.tuner).toList, h.key = route.key) ∧
    (∀ e ∈ countedOn s p.tuner (some slot), runningKey e.2 = some route.key) ∧
    (countedOn s p.tuner (some slot)).length + (if (firmHold s p.tuner).isSome then 1 else 0) < s.policy.streamLimit

/-- The SOFT hold of a tuner stands against a booking that starts there under a key: another key, or with the running
bookings, the starting one and the hold more streams than the limit (R44). -/
def StandsAgainst (s : State) (slot : Nat) (t : Tuner) (key : MuxKey) (hold : Hold) : Prop :=
  hold.key ≠ key ∨ s.policy.streamLimit < (countedOn s t (some slot)).length + 1 + 1

/-- The extension check grants for the booking in a slot (R145). -/
def Extends (s : State) (slot : Nat) (b : Booking) (r : RunningPlacement) : Prop :=
  b.follow = true ∧ b.runningStatus = .running ∧ b.extensionUsed < 3600 ∧
    (∀ e ∈ countedOn s r.tuner (some slot), runningKey e.2 = some r.key) ∧
    (countedOn s r.tuner (some slot)).length + 1 + (if (firmHold s r.tuner).isSome then 1 else 0) ≤ s.policy.streamLimit

/-- A booking slot when the clock reads as in `t`: the close point of a running booking is reached once the clock is at or
past it, and then stays so (R133). -/
def slotAtClock (t : State) (sl : BookingSlot) : BookingSlot :=
  { sl with
    booking := sl.booking.map fun b =>
      match b.running with
      | some r => { b with closeReached := b.closeReached || (b.state.isRunning && reached t r.closePoint) }
      | none => b }

/-- The refusal of a booking handle, none for a current one (R3). -/
def handleRefusal (s : State) (h : Handle) : Option ReplyCode :=
  if 127 < h.slot ∨ h.tag = 0 then some .badValue
  else if bookingOf s h = none then some .staleHandle
  else none

/-- The refusal of a link handle, none for a current one (R48). -/
def linkRefusal (s : State) (h : Handle) : Option ReplyCode :=
  if 31 < h.slot ∨ h.tag = 0 then some .badValue
  else if linkOf s h = none then some .staleHandle
  else none

/-- The end move of the running booking in a slot, from `s` to `t` (R147, R148). `b` is its record with the new fields,
`r` the running placement it had, `w` the showing used as it now is, and `post` the post allowance. While the close event
is due nothing but the fields changes; a close point ahead is stored; one that is reached closes the booking at once. -/
def EndMoved (s t : State) (slot : Nat) (b : Booking) (r : RunningPlacement) (w : Showing) (post : Nat) : Prop :=
  ∀ close later r1, close = satAdd (coreEnd w + post) b.extensionUsed →
    later = satAdd (coreEnd w + post) (b.extensionUsed + 300) →
    r1 = { r with postAllowance := post, closePoint := close } →
    (b.closeReached = true → HoldsBooking s t slot b ∧ t.planner = s.planner ∧ t.links = s.links) ∧
    (b.closeReached = false → reached s close = false →
      HoldsBooking s t slot { b with running := some r1 } ∧
        t.planner = { s.planner with stale := s.planner.stale || decide (close ≠ r.closePoint) } ∧
        t.links = s.links) ∧
    (b.closeReached = false → reached s close = true → b.state = .starting →
      HoldsBooking s t slot (asFinished s .failed (some .noConfirm) { b with running := some r1 }) ∧
        t.planner = { s.planner with stale := true } ∧ HistoryRemoved s t b) ∧
    (b.closeReached = false → reached s close = true → b.state = .recording →
      t.planner = { s.planner with stale := true } ∧ t.links = s.links ∧
        (Extends s slot b r →
          HoldsBooking s t slot
            { b with extensionUsed := b.extensionUsed + 300, running := some { r1 with closePoint := later },
                     closeReached := reached s later }) ∧
        (¬ Extends s slot b r →
          HoldsBooking s t slot (asFinished s .completed none { b with running := some r1 })))

/-! ### Fields of images (sections 12.1, 12.6 to 12.8) -/

/-- The value of a field of n bytes at an offset, most significant byte first. -/
def fieldAt (image : List Byte) (offset n : Nat) : Nat :=
  ((image.drop offset).take n).foldl (fun value byte => 256 * value + byte.toNat) 0

/-- The thirteen bytes at an offset are those of a showing (section 12.1). -/
def ShowingStands (image : List Byte) (offset : Nat) (v : Showing) : Prop :=
  fieldAt image offset 1 = v.event.isSome.toNat ∧ fieldAt image (offset + 1) 2 = v.channel % 65536 ∧
    fieldAt image (offset + 3) 2 = v.event.getD 0 % 65536 ∧
    fieldAt image (offset + 5) 4 = v.start % 4294967296 ∧ fieldAt image (offset + 9) 4 = v.duration % 4294967296

/-- The value of a multiplex key on the link: bit 15 clear for MUX, set for PRIVATE (section 12.1). -/
def keyValue : MuxKey → Nat
  | .mux id => id % 4096
  | .channelOnly c => 32768 + c % 16384

/-- A tuner carries, on a board, an occupant of the key of a showing that overlaps its clipped padded window; the FIRM hold
on that key counts as one (R110). -/
def CarriesTheKey (bd : Board) (w : Tried) (T : Tuner) : Prop :=
  ∃ o ∈ bd.occupants, o.tuner = T ∧ o.key = w.key ∧
    ∀ c ∈ o.closeAt.toList, max o.openAt w.paddedOpen < min c w.paddedClose

/-- An item comes before another of its kind: the earlier open, then the lower slot (R125). -/
def ListedBefore (x y : PlanItem) : Prop :=
  x.openAt.getD 0 < y.openAt.getD 0 ∨
    (x.openAt = y.openAt ∧ (x.handle.map fun h => h.slot).getD 0 < (y.handle.map fun h => h.slot).getD 0)

end Sys2Proof.Machine
end

