-- ==== Sys2Proof/Certificates/Slice0/Obligations.lean ====
section
/-! DEFINITION. The statements about the part. A result is stated as the next state the command answers: the frame reads
`t = { s with … }`, so that every field not named there is as before. -/

open Sys2Proof Sys2Proof.Machine

/-! ### The step and the requests -/

/-- The command at the front of the queue is run on the state with the queue's rest; on an empty queue the part idles (the
model's own queue, log entries 2 and 22). -/
def Obligations.StepRunsTheFrontCommand : Prop :=
  (∀ s c rest, s.pending = c :: rest → step s = exec c { s with pending := rest }) ∧
    ∀ s, s.pending = [] → step s = .next s

/-- Every command answers a next state, whatever the state, and leaves the queue of commands alone. Both are the model's
form, not the spec's words: a command whose event is not due is not taken and answers the state unchanged (log entry 1, read
from R130), and the queue is the model's own field, of which the part has none (log entry 22, DESIGN CHOICE). -/
def Obligations.EveryCommandAnswersNext : Prop :=
  ∀ c s, ∃ t, exec c s = .next t ∧ t.pending = s.pending

/-- A request in process is answered in its completion event: BUSY falls, one reply of at most 255 result bytes becomes
pending or, after a port reset, is discarded; a refusal has no results and changes nothing but the port (R174, R176, R181,
R192). REMOVE_LINK with an undefined disposal is completed by REMOVE_LINK with KEEP (log entry 5). -/
def Obligations.EveryRequestIsAnswered : Prop :=
  ∀ s r d, Taking s r d →
    ∃ t code results, exec (completionOf r) s = .next t ∧ Replied s t (kindOf r) d code results ∧ results.length ≤ 255 ∧
      (code ≠ .ok → code ≠ .adjusted → results = [] ∧ t = { s with port := t.port })

/-- A well-formed request's frame has the length its kind requires, and its payload decodes to the request (section 12.3,
R193). -/
def Obligations.RequestPayloadsDecodeBack : Prop :=
  ∀ r : Request, r.wellFormed = true →
    kindLength (kindOf r) = some (encodeRequest r).length ∧ decodeRequest (kindOf r) (encodeRequest r) = some r

/-! ### The Request Port -/

/-- SS falls: the image is the status octet, bit by bit, and the pending reply, which MISO shifts out before zeros (R171,
R175); while PORTRESET is high no transaction begins, and MISO shifts out zeros (R180). MISO is three-state while SS is high
and driven while it is low (R171, section 8). With SS low already nothing is taken (log entry 1). -/
def Obligations.TransactionStartFixesTheImage : Prop :=
  (∀ p : LinkPhase, misoPin p = .threeState ↔ p = .idle) ∧
  (∀ s, s.port.phase ≠ .idle → exec .transactionStart s = .next s) ∧
  ∀ s, s.port.phase = .idle →
    (s.port.portReset = false →
      ∃ o : Byte,
        exec .transactionStart s =
            .next { s with port := { s.port with phase := .transaction ⟨o, s.port.pendingReply, false⟩ } } ∧
          misoPin (.transaction ⟨o, s.port.pendingReply, false⟩) =
            .shifting
              (o :: s.port.pendingReply.toList.flatMap fun r =>
                [r.kind, replyCodeByte r.code, BitVec.ofNat 8 r.results.length] ++ r.results) ∧
          o.getLsbD 7 = s.port.inProcess.isSome ∧ o.getLsbD 6 = s.port.pendingReply.isSome ∧
          o.getLsbD 5 = s.out.attn ∧ o.getLsbD 4 = s.port.rejected ∧ o.getLsbD 3 = s.port.replyLost ∧
          o.getLsbD 2 = s.clock.valid ∧ o.getLsbD 1 = s.planner.pass.isSome ∧ o.getLsbD 0 = s.planner.stale) ∧
      (s.port.portReset = true →
        exec .transactionStart s = .next { s with port := { s.port with phase := .ignored } } ∧
          misoPin .ignored = .shifting [])

/-- SS rises after a frame of no whole byte or of the NOP kind: MISO carried the image and then zeros, and the reply of the
image is settled: after a full fetch REPLY_LOST is cleared, and the reply consumed unless it was replaced since; else
nothing is consumed (R171, R172, R173). The record of MISO is the model's own (log entry 11). -/
def Obligations.NopFrameFetchesTheReply : Prop :=
  ∀ s tr bytes spare, s.port.phase = .transaction tr → (∀ k ∈ bytes.head?, k = 0#8) →
    ∃ m : List Byte,
      exec (.frameEnd bytes spare) s =
          .next
            { s with
              port :=
                { s.port with
                  phase := .idle
                  miso := some m
                  pendingReply :=
                    if (∃ r ∈ tr.reply.toList, 4 + r.results.length ≤ bytes.length) ∧ tr.replaced = false then none
                    else s.port.pendingReply
                  replyLost :=
                    if ∃ r ∈ tr.reply.toList, 4 + r.results.length ≤ bytes.length then false
                    else s.port.replyLost } } ∧
        m.length = bytes.length ∧
        ∀ i, i < bytes.length →
          m.getD i 0 =
            (tr.status :: tr.reply.toList.flatMap fun r =>
              [r.kind, replyCodeByte r.code, BitVec.ofNat 8 r.results.length] ++ r.results).getD i 0

/-- SS rises after any other frame. `p` is the port after the fetch alone, as a NOP frame of as many bytes leaves it. The
first case that applies decides: BUSY rejects the frame; a frame cut short or declaring more than 96 bytes is answered
BAD_LENGTH, an unknown kind UNKNOWN_KIND, a wrong length for the kind BAD_LENGTH, each reply replacing a pending one with
REPLY_LOST; else the request is handed on and the port is BUSY (R173, R174, R191). Where no transaction stands, the frame is
discarded whatever it holds, with no reply and no flag: after a transaction was cut off, and where SS fell while PORTRESET was
high, MISO having carried zeros (R180). The record of MISO is the model's own (log entry 11). With SS high nothing is taken
(log entry 1). -/
def Obligations.FrameEndJudgesTheFrame : Prop :=
  (∀ s bytes spare,
    (s.port.phase = .cutOff →
      exec (.frameEnd bytes spare) s = .next { s with port := { s.port with phase := .idle, miso := none } }) ∧
    (s.port.phase = .ignored →
      exec (.frameEnd bytes spare) s =
        .next
          { s with port := { s.port with phase := .idle, miso := some (List.replicate bytes.length 0#8) } }) ∧
    (s.port.phase = .idle → exec (.frameEnd bytes spare) s = .next s)) ∧
  ∀ s tr p kind rest spare, s.port.phase = .transaction tr → kind ≠ 0#8 →
    exec (.frameEnd (List.replicate (rest.length + 1) 0#8) []) s = .next { s with port := p } →
    ∃ q, exec (.frameEnd (kind :: rest) spare) s = .next { s with port := q } ∧
      if p.inProcess.isSome then q = { p with rejected := true }
      else if rest = [] ∨ 96 < (rest.headD 0).toNat ∨ rest.length < 1 + (rest.headD 0).toNat then
        q = { p with rejected := false, pendingReply := some ⟨kind, .badLength, []⟩,
                     replyLost := p.replyLost || p.pendingReply.isSome }
      else
        match kindLength kind with
        | none =>
          q = { p with rejected := false, pendingReply := some ⟨kind, .unknownKind, []⟩,
                       replyLost := p.replyLost || p.pendingReply.isSome }
        | some n =>
          if (rest.headD 0).toNat = n then
            ∃ r, decodeRequest kind ((rest.drop 1).take n) = some r ∧
              q = { p with rejected := false, inProcess := some ⟨r, false⟩ }
          else
            q = { p with rejected := false, pendingReply := some ⟨kind, .badLength, []⟩,
                         replyLost := p.replyLost || p.pendingReply.isSome }

/-- PORTRESET rises: the pending reply and the port flags go, a transaction in progress is cut off, a request in process
stays with its reply to be discarded, every present hold is dropped with PORT_RESET, the Planner becomes stale when one of
them was FIRM, and the levels are derived again. PORTRESET falls: only its level changes (R46, R180). -/
def Obligations.PortResetClearsThePort : Prop :=
  (∀ s, exec .portresetFall s = .next { s with port := { s.port with portReset := false } }) ∧
  ∀ s, s.port.portReset = false →
    ∃ t, exec .portReset s = .next t ∧
      t = { s with port := t.port, holds := t.holds, planner := t.planner, out := t.out } ∧
      t.port =
        { s.port with
          portReset := true, pendingReply := none, rejected := false, replyLost := false
          inProcess := s.port.inProcess.map fun q => ⟨q.request, true⟩
          phase := match s.port.phase with
            | .transaction _ => .cutOff
            | p => p } ∧
      (∀ T : Tuner, t.holds.at T =
        if (s.holds.at T).hold.isSome then ⟨none, .portReset⟩ else s.holds.at T) ∧
      t.planner =
        { s.planner with
          stale := s.planner.stale || (firmHold s .tuner0).isSome || (firmHold s .tuner1).isSome } ∧
      OutputsSettled t

/-- The levels, where they are settled: REC lines (R150), WAKE (R151), the causes (R182) with YIELD (R45, R152), ATTN (R184)
and the wake request (R185). YIELD: some tuner carries a SOFT hold, and a SCHEDULED booking's current placement names the
tuner, is not held back, has not lapsed, has reached its yield instant and conflicts with the hold: its showing has a route
that holds the tuner, and the key differs or the streams are above the limit. -/
def Obligations.LevelsFollowTheirRules : Prop :=
  ∀ s, OutputsSettled s →
    (∀ T : Tuner, (match T with | .tuner0 => s.out.rec0 | .tuner1 => s.out.rec1) = true ↔
      ∃ e ∈ occupied s, e.2.state = .recording ∧ ∃ r ∈ e.2.running.toList, r.tuner = T) ∧
    (s.out.wake = true ↔
      s.hostAwake = false ∧
        ((∃ e ∈ occupied s, ∃ p ∈ (currentPlacement e.2).toList, e.2.heldBack = false ∧
            reached s (lapsePoint e.2) = false ∧ reached s (p.openAt - s.policy.wakeLead) = true) ∨
          (∃ e ∈ occupied s, e.2.state = .starting) ∨ s.out.wakeRequest = true)) ∧
    (s.out.causes.startWaiting = true ↔ ∃ e ∈ occupied s, e.2.state = .starting) ∧
    (s.out.causes.clash = true ↔ ∃ e ∈ occupied s, e.2.clashMark = true) ∧
    (s.out.causes.ended = true ↔ ∃ e ∈ occupied s, e.2.state.isFinished = true) ∧
    (s.out.causes.clock = true ↔ s.clock.valid = false ∨ s.clock.stepped = true) ∧
    (s.out.causes.linkNote = true ↔
      ∃ e ∈ occupiedLinks s, e.2.noteLimit = true ∨ e.2.noteTableFull = true) ∧
    (s.out.causes.yield = true ↔
      ∃ e ∈ occupied s, ∃ p ∈ (currentPlacement e.2).toList, ∃ hold ∈ (softHold s p.tuner).toList,
        e.2.heldBack = false ∧ reached s (lapsePoint e.2) = false ∧
          reached s (p.openAt - s.policy.yieldLead) = true ∧
          ∃ v ∈ (showingNamed e.2 p.kind.used).toList, ∃ route ∈ (resolve s v.channel).toList,
            route.eligible.has p.tuner = true ∧
              (route.key ≠ hold.key ∨ s.policy.streamLimit < (countedOn s p.tuner none).length + 1 + 1)) ∧
    (s.out.attn = true ↔
      ∃ c ∈ (PerCause.toList s.out.causes).zip (PerCause.toList s.routings), c.1 = true ∧ c.2 ≠ .off) ∧
    (s.out.wakeRequest = true ↔
      ∃ c ∈ (PerCause.toList s.out.causes).zip (PerCause.toList s.routings), c.1 = true ∧ c.2 = .attnWake)

/-! ### The Booking Table -/

/-- ADD_BOOKING creates a booking: with values that are not refused, a free slot, no duplicate and a latest core end that
lies ahead, the lowest free slot holds the record of R12 under its next tag, the Planner is stale, and the reply carries the
handle, ADJUSTED when a field was clamped (R4, R5, R11, R12). -/
def Obligations.AddBookingCreatesTheRecord : Prop :=
  ∀ s f d slot, Taking s (.addBooking f) d → AddAccepted f →
    slot < s.bookings.length → bookingAt s slot = none → (∀ i, i < slot → (bookingAt s i).isSome = true) →
    ¬ DuplicateShowings s none (clampedAdd f).primary (clampedAdd f).alternative →
    (s.clock.valid = true →
      s.clock.seconds < latestCoreEnd (clampedAdd f).primary (clampedAdd f).alternative) →
    ∃ t, exec .addBooking s = .next t ∧
      t = { s with
            bookings := s.bookings.set slot
              ⟨nextBookingTag s slot, some
                { origin := .manual, link := none, isRepeat := false, primary := (clampedAdd f).primary,
                  alternative := (clampedAdd f).alternative, episode := f.episode, prePad := min 7200 f.prePad,
                  postPad := min 7200 f.postPad, priority := min 7 f.priority, follow := (clampedAdd f).follow,
                  runningStatus := .unknown, extensionUsed := 0, version := 0, state := .scheduled,
                  finishReason := none, installed := none, heldBack := false, lateStart := false,
                  clashMark := false, running := none, startStamp := none, endStamp := none,
                  confirmTimer := none, closeReached := false }⟩
            planner := { s.planner with stale := true }, port := t.port, out := t.out } ∧
      OutputsSettled t ∧
      Replied s t 0x10#8 d (acceptedCode (decide (clampedAdd f ≠ f)))
        [BitVec.ofNat 8 slot, BitVec.ofNat 8 (nextBookingTag s slot)]

/-- ADD_BOOKING is refused by the first check that fails: values, capacity, uniqueness, time (R11). AMEND_BOOKING is refused
by values, handle, and then state: DUPLICATE for a SCHEDULED booking, WRONG_STATE for a running one of which anything else
changes than the duration of the showing in use, the post-pad, follow and the priority, and WRONG_STATE for a finished one
(R3, R13, R14, R15). Nothing changes but the port. -/
def Obligations.BookingFieldsAreRefusedInOrder : Prop :=
  (∀ s f d, Taking s (.addBooking f) d →
    ∃ t code, exec .addBooking s = .next t ∧
      (¬ AddAccepted f → code = .badValue) ∧
      (AddAccepted f → (∀ sl ∈ s.bookings, sl.booking.isSome = true) → code = .tableFull) ∧
      (AddAccepted f → (∃ sl ∈ s.bookings, sl.booking = none) →
        DuplicateShowings s none (clampedAdd f).primary (clampedAdd f).alternative → code = .duplicate) ∧
      (AddAccepted f → (∃ sl ∈ s.bookings, sl.booking = none) →
        ¬ DuplicateShowings s none (clampedAdd f).primary (clampedAdd f).alternative → s.clock.valid = true →
        latestCoreEnd (clampedAdd f).primary (clampedAdd f).alternative ≤ s.clock.seconds → code = .tooLate) ∧
      (code ≠ .ok → code ≠ .adjusted →
        t = { s with port := t.port } ∧ Replied s t 0x10#8 d code [])) ∧
    ∀ s h f d, Taking s (.amendBooking h f) d →
      (¬ AmendAccepted f → RefusedWith s (.amendBooking h f) d .badValue) ∧
      (AmendAccepted f →
        (∀ c, handleRefusal s h = some c → RefusedWith s (.amendBooking h f) d c) ∧
        ∀ b, NamesBooking s h b →
          (b.state = .scheduled →
            DuplicateShowings s (some h.slot) (clampedAmend .primary f).primary (clampedAmend .primary f).alternative →
            RefusedWith s (.amendBooking h f) d .duplicate) ∧
          (∀ r v, b.state.isRunning = true → b.running = some r → showingNamed b r.used = some v →
            (∀ w, ¬ RunningAmend b r.used v w (clampedAmend r.used f)) →
            RefusedWith s (.amendBooking h f) d .wrongState) ∧
          (b.state.isFinished = true → RefusedWith s (.amendBooking h f) d .wrongState))

/-- The tag of a slot's next occupancy is the last tag plus one, 255 followed by 1, and one more when a pass in progress
recorded that tag for the slot; it is 1 to 255, differs from the last tag, and no pass in progress recorded it. A raised
version is the first of the values after the version, 255 followed by 0, that is neither the stamp of the installed
placement nor a version that a pass in progress saw when it evaluated the booking (R2, R6). -/
def Obligations.TagsAndVersionsAreFresh : Prop :=
  (∀ s slot, tagAt s slot ≤ 255 →
    (∀ p ∈ s.planner.pass.toList, (p.order.map fun e => e.handle.slot).Nodup) →
    ∃ n, n = (if tagAt s slot = 255 then 1 else tagAt s slot + 1) ∧
      (recordedByPass s ⟨slot, n⟩ = false → nextBookingTag s slot = n) ∧
      (recordedByPass s ⟨slot, n⟩ = true → nextBookingTag s slot = if n = 255 then 1 else n + 1) ∧
      1 ≤ nextBookingTag s slot ∧ nextBookingTag s slot ≤ 255 ∧ nextBookingTag s slot ≠ tagAt s slot ∧
      recordedByPass s ⟨slot, nextBookingTag s slot⟩ = false) ∧
    ∀ s h b, ((stampOf b).toList ++ seenVersions s h).length < 256 →
      ∃ k, 1 ≤ k ∧ k ≤ 256 ∧ raisedVersion s h b = (b.version + k) % 256 ∧
        raisedVersion s h b ∉ (stampOf b).toList ++ seenVersions s h ∧
        ∀ j, 1 ≤ j → j < k → (b.version + j) % 256 ∈ (stampOf b).toList ++ seenVersions s h

/-- AMEND_BOOKING of a SCHEDULED booking stores every field, raises the version when a placement-relevant field changed,
sets the running status to UNKNOWN when the primary channel or event id changed, and makes the Planner stale when any stored
field changed; the rest of the record stays (R6, R10, R14). -/
def Obligations.AmendOfScheduledStoresTheFields : Prop :=
  ∀ s h f d b, Taking s (.amendBooking h f) d → AmendAccepted f → NamesBooking s h b → b.state = .scheduled →
    ¬ DuplicateShowings s (some h.slot) (clampedAmend .primary f).primary (clampedAmend .primary f).alternative →
    ∃ t c, exec .amendBooking s = .next t ∧ c = clampedAmend .primary f ∧
      t = { s with bookings := t.bookings, planner := t.planner, port := t.port, out := t.out } ∧
      SlotsAgreeBut h.slot s t ∧
      HoldsBooking s t h.slot
        { b with
          primary := c.primary, alternative := c.alternative, prePad := c.prePad, postPad := c.postPad,
          priority := c.priority, follow := c.follow
          version :=
            if c.primary = b.primary ∧ c.alternative = b.alternative ∧ c.prePad = b.prePad ∧ c.postPad = b.postPad ∧
                c.priority = b.priority then b.version
            else raisedVersion s h b
          runningStatus :=
            if c.primary.channel = b.primary.channel ∧ c.primary.event = b.primary.event then b.runningStatus
            else .unknown } ∧
      t.planner = { s.planner with stale := s.planner.stale || decide (bookingOf t h ≠ some b) } ∧
      OutputsSettled t ∧ Replied s t 0x11#8 d (acceptedCode (decide (c ≠ f))) []

/-- AMEND_BOOKING of a STARTING or RECORDING booking stores the duration of the showing in use, the post-pad, follow and the
priority, with the version raised when one of them but follow changed. A changed duration or post-pad moves the end, to the
new core end, with the new post-pad as post allowance when it changed: a close point ahead is stored, with the Planner stale
when it differs; one already reached fails a STARTING booking with NO_CONFIRM, and extends or completes a RECORDING one by the
extension check; and while the close event is due the close point and the post allowance stay. Otherwise the close point and
the Planner stay (R6, R15, R145, R147, R148). That the extension check of a close in the same event reads the new follow is
the model's reading, DEDUCED from R147 and R148 (log entry 24). -/
def Obligations.AmendOfRunningMovesTheEnd : Prop :=
  ∀ s h f d b r v w c, Taking s (.amendBooking h f) d → AmendAccepted f → NamesBooking s h b →
    b.state.isRunning = true → b.running = some r → showingNamed b r.used = some v → c = clampedAmend r.used f →
    RunningAmend b r.used v w c →
    ∃ t b1, exec .amendBooking s = .next t ∧
      b1 = { b with
             primary := c.primary, alternative := c.alternative, postPad := c.postPad, priority := c.priority
             follow := c.follow
             version :=
               if w = v ∧ c.postPad = b.postPad ∧ c.priority = b.priority then b.version else raisedVersion s h b } ∧
      t = { s with bookings := t.bookings, links := t.links, planner := t.planner, port := t.port, out := t.out } ∧
      SlotsAgreeBut h.slot s t ∧ OutputsSettled t ∧ Replied s t 0x11#8 d (acceptedCode (decide (c ≠ f))) [] ∧
      (w = v → c.postPad = b.postPad →
        HoldsBooking s t h.slot b1 ∧ t.planner = s.planner ∧ t.links = s.links) ∧
      (w ≠ v ∨ c.postPad ≠ b.postPad →
        EndMoved s t h.slot b1 r w (if c.postPad = b.postPad then r.postAllowance else c.postPad))

/-- The end move that AMEND_BOOKING and MATCHER_EVENT share, in every case: the close event already due, a close point ahead,
and one already reached, which fails a STARTING booking with NO_CONFIRM and extends or completes a RECORDING one at once. No
other booking changes (R145, R147, R148). What the two commands do with it is stated of exec where their effects are. -/
def Obligations.EndMoveClosesAtOnce : Prop :=
  ∀ s h b r newPost w, bookingAt s h.slot = some b → b.state.isRunning = true → b.running = some r →
    showingNamed b r.used = some w →
    SlotsAgreeBut h.slot s (moveEnd s h b newPost) ∧
      EndMoved s (moveEnd s h b newPost) h.slot b r w (newPost.getD r.postAllowance)

/-- WITHDRAW: a SCHEDULED booking is freed and the Planner made stale; a finished one is freed; a running one becomes
ABORTED with reason WITHDRAWN in its slot, and the Planner stale. A freed slot keeps its last tag (R16, R17, R143). A handle
out of range or not current is refused with BAD_VALUE or STALE_HANDLE (R3). -/
def Obligations.WithdrawFreesOrAborts : Prop :=
  (∀ s h d c, Taking s (.withdraw h) d → handleRefusal s h = some c → RefusedWith s (.withdraw h) d c) ∧
  ∀ s h d b, Taking s (.withdraw h) d → NamesBooking s h b →
    ∃ t, exec .withdraw s = .next t ∧
      t = { s with bookings := t.bookings, planner := t.planner, port := t.port, out := t.out } ∧
      SlotsAgreeBut h.slot s t ∧ OutputsSettled t ∧ Replied s t 0x12#8 d .ok [] ∧
      (b.state.isRunning = false → t.bookings[h.slot]? = some ⟨tagAt s h.slot, none⟩) ∧
      (b.state.isRunning = true →
        HoldsBooking s t h.slot (asFinished s .aborted (some .withdrawn) b)) ∧
      t.planner = { s.planner with stale := s.planner.stale || !b.state.isFinished }

/-- READ_BOOKING answers the image of the record and FIND the handle and the showing that carry the pair, or NOT_FOUND; both
leave everything but the port alone. A handle out of range or not current, and a channel out of range, are refused (R3, R18,
R20). -/
def Obligations.BookingsAreReadAndFound : Prop :=
  (∀ s h d c, Taking s (.readBooking h) d → handleRefusal s h = some c → RefusedWith s (.readBooking h) d c) ∧
  (∀ s h d b, Taking s (.readBooking h) d → NamesBooking s h b →
    ∃ t, exec .readBooking s = .next t ∧ t = { s with port := t.port } ∧
      Replied s t 0x13#8 d .ok (bookingImage h b)) ∧
    (∀ s channel event d, Taking s (.find channel event) d → PairsUnique s → 1 ≤ channel → channel ≤ 9999 →
      ∃ t, exec .find s = .next t ∧ t = { s with port := t.port } ∧
        (∀ e ∈ occupied s, ∀ u ∈ bothShowings, pairNamed e.2 u = some (channel, event) →
          Replied s t 0x15#8 d .ok
            [BitVec.ofNat 8 e.1.slot, BitVec.ofNat 8 e.1.tag, if u = .primary then 0x00#8 else 0x01#8]) ∧
        (¬ PairStands s none (some (channel, event)) → Replied s t 0x15#8 d .notFound [])) ∧
    ∀ s channel event d, Taking s (.find channel event) d → channel = 0 ∨ 9999 < channel →
      ∃ t, exec .find s = .next t ∧ t = { s with port := t.port } ∧ Replied s t 0x15#8 d .badValue []

/-- Every field of the 82-byte image of READ_BOOKING and of the 52-byte image of READ_LINK stands at its offset, with its
presence bit and its code, and an absent field is zeros (R18, R56, R192, R193, sections 12.1, 12.6 and 12.7). -/
def Obligations.ImagesHaveTheirLayout : Prop :=
  (∀ h b img, img = bookingImage h b →
    img.length = 82 ∧ fieldAt img 0 1 = h.slot % 256 ∧ fieldAt img 1 1 = h.tag % 256 ∧
    fieldAt img 2 1 =
      (b.origin == .series).toNat + 2 * b.link.isSome.toNat + 4 * b.isRepeat.toNat +
        8 * b.alternative.isSome.toNat + 16 * b.episode.isSome.toNat + 32 * b.follow.toNat +
        64 * b.heldBack.toNat + 128 * b.lateStart.toNat ∧
    fieldAt img 3 1 =
      b.clashMark.toNat + 2 * (b.installed.any fun e => e.clamped).toNat + 4 * b.running.isSome.toNat +
        8 * b.startStamp.isSome.toNat + 16 * b.endStamp.isSome.toNat ∧
    fieldAt img 4 1 =
      (match b.state with
        | .scheduled => 0 | .starting => 1 | .recording => 2 | .completed => 3 | .aborted => 4 | .failed => 5
        | .missed => 6) ∧
    fieldAt img 5 1 =
      (match b.finishReason with
        | none => 0 | some .stopped => 1 | some .withdrawn => 2 | some .declined => 3 | some .noConfirm => 4) ∧
    fieldAt img 6 1 = (match b.runningStatus with | .unknown => 0 | .running => 1 | .notRunning => 2) ∧
    (∀ l ∈ b.link.toList, fieldAt img 7 1 = l.slot % 256 ∧ fieldAt img 8 1 = l.tag % 256) ∧
    (b.link = none → fieldAt img 7 2 = 0) ∧
    ShowingStands img 9 b.primary ∧ (∀ v ∈ b.alternative.toList, ShowingStands img 22 v) ∧
    (b.alternative = none → fieldAt img 22 13 = 0) ∧
    fieldAt img 35 4 = b.episode.getD 0 % 4294967296 ∧ fieldAt img 39 2 = b.prePad % 65536 ∧
    fieldAt img 41 2 = b.postPad % 65536 ∧ fieldAt img 43 1 = b.priority % 256 ∧
    fieldAt img 44 2 = b.extensionUsed % 65536 ∧ fieldAt img 46 1 = b.version % 256 ∧
    (b.installed = none → fieldAt img 47 13 = 0) ∧
    (∀ e ∈ b.installed.toList,
      fieldAt img 47 1 =
        (match e.verdict with
          | .placed p => (match p.kind with | .placed => 1 | .trimmed => 2 | .onAlternative => 3)
          | .clashed => 4 | .lapsed => 5 | .unreachable => 6) ∧
      (∀ p ∈ e.verdict.placement.toList,
        fieldAt img 48 1 = (match p.tuner with | .tuner0 => 0 | .tuner1 => 1) ∧
          fieldAt img 49 4 = p.openAt % 4294967296 ∧ fieldAt img 53 4 = p.closeAt % 4294967296) ∧
      (e.verdict.placement = none → fieldAt img 48 9 = 0) ∧
      fieldAt img 57 1 = e.stamp % 256 ∧ (fieldAt img 58 2 : Int) = e.merit % 65536) ∧
    (b.running = none → fieldAt img 60 14 = 0) ∧
    (∀ r ∈ b.running.toList,
      fieldAt img 60 1 = (match r.tuner with | .tuner0 => 0 | .tuner1 => 1) ∧
        fieldAt img 61 2 = keyValue r.key ∧
        fieldAt img 63 1 = (match r.used with | .primary => 0 | .alternative => 1) ∧
        fieldAt img 64 4 = r.actualOpen % 4294967296 ∧ fieldAt img 68 2 = r.postAllowance % 65536 ∧
        fieldAt img 70 4 = r.closePoint % 4294967296) ∧
    fieldAt img 74 4 = b.startStamp.getD 0 % 4294967296 ∧ fieldAt img 78 4 = b.endStamp.getD 0 % 4294967296) ∧
    ∀ h l m n img, img = linkImage h l m n → l.history.length ≤ 8 →
      img.length = 52 ∧ fieldAt img 0 1 = h.slot % 256 ∧ fieldAt img 1 1 = h.tag % 256 ∧
      fieldAt img 2 4 = l.seriesId % 4294967296 ∧ fieldAt img 6 2 = l.preference.getD 65535 % 65536 ∧
      fieldAt img 8 1 = (match l.policy with | .newOnly => 0 | .all => 1) ∧
      fieldAt img 9 1 = (match l.status with | .active => 0 | .dormant => 1) ∧
      fieldAt img 10 1 = l.priority % 256 ∧ fieldAt img 11 2 = l.prePad % 65536 ∧
      fieldAt img 13 2 = l.postPad % 65536 ∧
      fieldAt img 15 1 = l.follow.toNat + 2 * l.noteLimit.toNat + 4 * l.noteTableFull.toNat ∧
      fieldAt img 16 1 = l.keepAhead % 256 ∧ fieldAt img 17 1 = m % 256 ∧ fieldAt img 18 1 = n % 256 ∧
      fieldAt img 19 1 = l.history.length ∧
      ∀ i, i < 8 → fieldAt img (20 + 4 * i) 4 = l.history.getD i 0 % 4294967296

/-- LIST returns the matching bookings and LIST_LINKS the matching links, in ascending slot order from the starting slot, at
most 16 with the slot to continue from; both leave everything but the port alone. An empty set, a starting slot or an origin
out of range, and a link handle out of range, are refused with BAD_VALUE, and a link handle that is not current with
STALE_HANDLE (R19, R48, R57). -/
def Obligations.ListsReturnTheMatches : Prop :=
  (∀ s f d, Taking s (.list f) d →
    ((∀ i, i < 7 → f.states.getLsbD i = false) ∨ 127 < f.start ∨ (∃ o ∈ f.origin.toList, 1 < o) ∨
        (∃ h ∈ f.link.toList, 31 < h.slot ∨ h.tag = 0) →
      RefusedWith s (.list f) d .badValue) ∧
    ((∃ i, i < 7 ∧ f.states.getLsbD i = true) → f.start ≤ 127 → (∀ o ∈ f.origin.toList, o ≤ 1) →
      (∃ h ∈ f.link.toList, linkRefusal s h = some .staleHandle) → RefusedWith s (.list f) d .staleHandle)) ∧
  (∀ s statuses noted start d, Taking s (.listLinks statuses noted start) d →
    (statuses.getLsbD 0 = false ∧ statuses.getLsbD 1 = false) ∨ 31 < start →
    RefusedWith s (.listLinks statuses noted start) d .badValue) ∧
  (∀ s f d, Taking s (.list f) d → (∃ i, i < 7 ∧ f.states.getLsbD i = true) → f.start ≤ 127 →
    (∀ o ∈ f.origin.toList, o ≤ 1) →
    (∀ h ∈ f.link.toList, h.slot ≤ 31 ∧ h.tag ≠ 0 ∧ (linkOf s h).isSome = true) →
    ∃ t, exec .list s = .next t ∧ t = { s with port := t.port } ∧
      Replied s t 0x14#8 d .ok
        (listBytes
          (((occupied s).filter fun e =>
              decide (f.start ≤ e.1.slot ∧ f.states.getLsbD (stateCode e.2.state) = true ∧
                (∀ o ∈ f.origin.toList, originCode e.2.origin = o) ∧
                (∀ h ∈ f.link.toList, e.2.link = some h))).map fun e => e.1))) ∧
    ∀ s statuses noted start d, Taking s (.listLinks statuses noted start) d →
      (statuses.getLsbD 0 = true ∨ statuses.getLsbD 1 = true) → start ≤ 31 →
      ∃ t, exec .listLinks s = .next t ∧ t = { s with port := t.port } ∧
        Replied s t 0x35#8 d .ok
          (listBytes
            (((occupiedLinks s).filter fun e =>
                decide (start ≤ e.1.slot ∧ statuses.getLsbD (linkStatusCode e.2.status) = true ∧
                  (noted = true → e.2.noteLimit = true ∨ e.2.noteTableFull = true))).map fun e => e.1))

/-! ### The Channel Map -/

/-- Resolution: a channel with an entry gives the multiplex of the entry and the set of its band; one without gives its own
PRIVATE key through the default band, and no route when that is NONE; the order lists tuner 0 before tuner 1 (R27). -/
def Obligations.ChannelsResolve : Prop :=
  (∀ s e, (s.map.entries.map fun x => x.channel).Pairwise (· < ·) → e ∈ s.map.entries →
    resolve s e.channel = some ⟨.mux e.mux, s.map.bands.at e.band⟩) ∧
    (∀ s c, (∀ e ∈ s.map.entries, e.channel ≠ c) →
      resolve s c = s.policy.defaultBand.map fun d => ⟨.channelOnly c, s.map.bands.at d⟩) ∧
    (∀ e : EligibleSet, e.order =
      (if e.has0 then [Tuner.tuner0] else []) ++ (if e.has1 then [Tuner.tuner1] else [])) ∧
    ∀ i c, MuxKey.mux i ≠ MuxKey.channelOnly c

/-- SET_CHANNEL, REMOVE_CHANNEL and SET_BAND store what they carry: an entry created or replaced, within 256, an entry
removed, a band's set written; other channels and bands resolve as before; the Planner is stale when something changed, and
the reply is OK with its results. A value out of range is refused with BAD_VALUE, a new channel in a full map with TABLE_FULL,
and the removal of a channel without an entry with NOT_FOUND (R30, R31, R33). -/
def Obligations.MapRequestsChangeTheMap : Prop :=
  (∀ s channel mux band d, Taking s (.setChannel channel mux band) d →
    (channel = 0 ∨ 9999 < channel ∨ mux = 0 ∨ 4095 < mux ∨ 3 < band →
      RefusedWith s (.setChannel channel mux band) d .badValue) ∧
    (1 ≤ channel → channel ≤ 9999 → 1 ≤ mux → mux ≤ 4095 → band ≤ 3 → entryOf s channel = none →
      256 ≤ s.map.entries.length → RefusedWith s (.setChannel channel mux band) d .tableFull)) ∧
  (∀ s channel d, Taking s (.removeChannel channel) d →
    (channel = 0 ∨ 9999 < channel → RefusedWith s (.removeChannel channel) d .badValue) ∧
    (1 ≤ channel → channel ≤ 9999 → entryOf s channel = none →
      RefusedWith s (.removeChannel channel) d .notFound)) ∧
  (∀ s band eligible d, Taking s (.setBand band eligible) d → 3 < band ∨ 3 < eligible →
    RefusedWith s (.setBand band eligible) d .badValue) ∧
  (∀ s channel mux d, ∀ band : Fin 4, Taking s (.setChannel channel mux band.val) d →
    1 ≤ channel → channel ≤ 9999 → 1 ≤ mux → mux ≤ 4095 →
    ((entryOf s channel).isSome = true ∨ s.map.entries.length < 256) →
    ∃ t, exec .setChannel s = .next t ∧
      t = { s with map := { s.map with entries := t.map.entries }, planner := t.planner, port := t.port,
                   out := t.out } ∧
      entryOf t channel = some ⟨channel, mux, band⟩ ∧ (∀ c, c ≠ channel → entryOf t c = entryOf s c) ∧
      t.planner =
        { s.planner with stale := s.planner.stale || decide (entryOf s channel ≠ some ⟨channel, mux, band⟩) } ∧
      OutputsSettled t ∧
      Replied s t 0x20#8 d .ok [if (entryOf s channel).isSome then 0x00#8 else 0x01#8]) ∧
    (∀ s channel d, Taking s (.removeChannel channel) d → 1 ≤ channel → channel ≤ 9999 →
      (entryOf s channel).isSome = true →
      ∃ t, exec .removeChannel s = .next t ∧
        t = { s with map := { s.map with entries := t.map.entries }, planner := { s.planner with stale := true },
                     port := t.port, out := t.out } ∧
        entryOf t channel = none ∧ (∀ c, c ≠ channel → entryOf t c = entryOf s c) ∧
        OutputsSettled t ∧ Replied s t 0x21#8 d .ok []) ∧
    ∀ s d, ∀ band : Fin 4, ∀ set : EligibleSet, Taking s (.setBand band.val (eligibleCode set)) d →
      ∃ t, exec .setBand s = .next t ∧
        t = { s with map := { s.map with bands := t.map.bands }, planner := t.planner, port := t.port,
                     out := t.out } ∧
        (∀ i, t.map.bands.at i = if i = band then set else s.map.bands.at i) ∧
        t.planner = { s.planner with stale := s.planner.stale || decide (s.map.bands.at band ≠ set) } ∧
        OutputsSettled t ∧
        Replied s t 0x23#8 d .ok ([0, 1, 2, 3].map fun i => BitVec.ofNat 8 (eligibleCode (t.map.bands.at i)))

/-! ### Tuner Holds -/

/-- An accepted HOLD: with a route whose order holds the tuner and, for FIRM, no running booking on another key and at most
three streams, the tuner has the hold the table of R40 gives and the reason NONE, the other tuner's record is as before, the
Planner is stale when the hold before or after is FIRM unless it was a refresh, and the reply carries the indication and the
hold (R38, R39, R40). -/
def Obligations.HoldIsTaken : Prop :=
  ∀ s channel d route, ∀ T : Tuner, ∀ kind : HoldKind,
    Taking s (.hold (tunerCode T) channel (holdKindCode kind)) d → 1 ≤ channel → channel ≤ 9999 →
    resolve s channel = some route → route.eligible.has T = true →
    (kind = .firm →
      (∀ e ∈ runningOn s T, runningKey e.2 = some route.key) ∧ (runningOn s T).length + 1 ≤ 3) →
    ∃ t new, exec .hold s = .next t ∧
      new = (match (s.holds.at T).hold with
        | some h =>
          if h.kind = kind ∧ h.key = route.key then { h with channel := channel }
          else ⟨kind, channel, route.key, if s.clock.valid then some s.clock.seconds else none⟩
        | none => ⟨kind, channel, route.key, if s.clock.valid then some s.clock.seconds else none⟩) ∧
      t = { s with holds := t.holds, planner := t.planner, port := t.port, out := t.out } ∧
      (∀ u, t.holds.at u = if u = T then ⟨some new, .noDrop⟩ else s.holds.at u) ∧
      t.planner =
        { s.planner with
          stale :=
            s.planner.stale ||
              (((firmHold s T).isSome || decide (kind = .firm)) &&
                !((s.holds.at T).hold.any fun h => decide (h.kind = kind ∧ h.key = route.key))) } ∧
      OutputsSettled t ∧
      Replied s t 0x28#8 d .ok
        ((match (s.holds.at T).hold with
            | none => 0x00#8
            | some h => if h.kind = kind ∧ h.key = route.key then 0x01#8 else 0x02#8) :: holdBytes new)

/-- HOLD is refused by the first check that fails, and changes nothing: a value out of range, no route, a tuner that is not
in the order, and for FIRM a running booking on another key or a fourth stream (R38, R39). -/
def Obligations.HoldRefusalsInOrder : Prop :=
  (∀ s tuner channel kind d, Taking s (.hold tuner channel kind) d →
    1 < tuner ∨ channel = 0 ∨ 9999 < channel ∨ 1 < kind →
    ∃ t, exec .hold s = .next t ∧ t = { s with port := t.port } ∧ Replied s t 0x28#8 d .badValue []) ∧
    ∀ s channel d, ∀ T : Tuner, ∀ kind : HoldKind,
      Taking s (.hold (tunerCode T) channel (holdKindCode kind)) d → 1 ≤ channel → channel ≤ 9999 →
      ∃ t code, exec .hold s = .next t ∧
        (resolve s channel = none → code = .noRoute) ∧
        (∀ route, resolve s channel = some route → route.eligible.has T = false → code = .notEligible) ∧
        (∀ route, resolve s channel = some route → route.eligible.has T = true → kind = .firm →
          (∃ e ∈ runningOn s T, runningKey e.2 ≠ some route.key) ∨ 3 < (runningOn s T).length + 1 →
          code = .tunerBusy) ∧
        (code ≠ .ok → t = { s with port := t.port } ∧ Replied s t 0x28#8 d code [])

/-- RELEASE of a present hold: the hold is absent with reason RELEASED, the Planner stale when it was FIRM. RELEASE with no
hold changes nothing. Both answer OK with the released kind. A tuner that does not exist is refused with BAD_VALUE (R41). -/
def Obligations.ReleaseDropsTheHold : Prop :=
  (∀ s tuner d, Taking s (.release tuner) d → 1 < tuner → RefusedWith s (.release tuner) d .badValue) ∧
  ∀ s d, ∀ T : Tuner, Taking s (.release (tunerCode T)) d →
    ∃ t, exec .release s = .next t ∧
      t = { s with holds := t.holds, planner := t.planner, port := t.port, out := t.out } ∧
      (∀ u, t.holds.at u =
        if u = T ∧ (s.holds.at T).hold.isSome = true then ⟨none, .released⟩ else s.holds.at u) ∧
      t.planner = { s.planner with stale := s.planner.stale || (firmHold s T).isSome } ∧ OutputsSettled t ∧
      Replied s t 0x29#8 d .ok
        [match (s.holds.at T).hold with
          | some h => if h.kind = .firm then 0x00#8 else 0x01#8
          | none => 0x02#8]

/-! ### The Link Table and the Announcement Queue -/

/-- ADD_LINK with accepted values, a free slot and a series id that no link carries creates the link of R50 in the lowest
free slot under its next tag. AMEND_LINK stores the amendable fields, SET_LINK_STATUS the status with the one before in the
reply, and READ_LINK answers the image and clears both notes. No other link, no booking and not the Planner changes. They are
refused by the first check that fails: values, and then for ADD_LINK capacity and uniqueness, for the others the handle (R48
to R52, R56). -/
def Obligations.LinkRequestsChangeOneLink : Prop :=
  (∀ s series status f d, Taking s (.addLink series status f) d →
    (¬ LinkFieldsAccepted f ∨ series = 0 ∨ (∃ a ∈ status.toList, 1 < a) →
      RefusedWith s (.addLink series status f) d .badValue) ∧
    (LinkFieldsAccepted f → series ≠ 0 → (∀ a ∈ status.toList, a ≤ 1) →
      ((∀ sl ∈ s.links, sl.link.isSome = true) → RefusedWith s (.addLink series status f) d .tableFull) ∧
      ((∃ sl ∈ s.links, sl.link = none) → (∃ e ∈ occupiedLinks s, e.2.seriesId = series) →
        RefusedWith s (.addLink series status f) d .duplicate))) ∧
  (∀ s h f d, Taking s (.amendLink h f) d →
    (¬ LinkFieldsAccepted f → RefusedWith s (.amendLink h f) d .badValue) ∧
    ∀ c, LinkFieldsAccepted f → linkRefusal s h = some c → RefusedWith s (.amendLink h f) d c) ∧
  (∀ s h status d, Taking s (.setLinkStatus h status) d →
    (1 < status → RefusedWith s (.setLinkStatus h status) d .badValue) ∧
    ∀ c, status ≤ 1 → linkRefusal s h = some c → RefusedWith s (.setLinkStatus h status) d c) ∧
  (∀ s h d c, Taking s (.readLink h) d → linkRefusal s h = some c → RefusedWith s (.readLink h) d c) ∧
  (∀ s series f d slot, ∀ asked : Option LinkStatus,
      Taking s (.addLink series (asked.map linkStatusCode) f) d → LinkFieldsAccepted f → series ≠ 0 →
      slot < s.links.length → linkAt s slot = none → (∀ i, i < slot → (linkAt s i).isSome = true) →
      (∀ e ∈ occupiedLinks s, e.2.seriesId ≠ series) →
      ∃ t tag, exec .addLink s = .next t ∧
        tag = (if linkTagAt s slot < 255 then linkTagAt s slot + 1 else 1) ∧
        t = { s with
              links := s.links.set slot
                ⟨tag, some
                  { seriesId := series, preference := if f.preference = 65535 then none else some f.preference,
                    policy := if f.policy = 0 then .newOnly else .all, status := asked.getD .active,
                    priority := min 7 f.priority, prePad := min 7200 f.prePad, postPad := min 7200 f.postPad,
                    follow := f.follow, keepAhead := max 1 (min 8 f.keepAhead), history := [], noteLimit := false,
                    noteTableFull := false }⟩
              port := t.port, out := t.out } ∧
        OutputsSettled t ∧
        Replied s t 0x30#8 d (acceptedCode (decide (clampedLink f ≠ f))) [BitVec.ofNat 8 slot, BitVec.ofNat 8 tag]) ∧
  (∀ s h f d l, Taking s (.amendLink h f) d → LinkFieldsAccepted f → NamesLink s h l →
    ∃ t, exec .amendLink s = .next t ∧ t = { s with links := t.links, port := t.port, out := t.out } ∧
      LinksAgreeBut h.slot s t ∧
      HoldsLink s t h.slot
        { l with preference := if f.preference = 65535 then none else some f.preference,
                 policy := if f.policy = 0 then .newOnly else .all, priority := min 7 f.priority,
                 prePad := min 7200 f.prePad, postPad := min 7200 f.postPad, follow := f.follow,
                 keepAhead := max 1 (min 8 f.keepAhead) } ∧
      OutputsSettled t ∧ Replied s t 0x31#8 d (acceptedCode (decide (clampedLink f ≠ f))) []) ∧
    (∀ s h d l, ∀ st : LinkStatus, Taking s (.setLinkStatus h (linkStatusCode st)) d → NamesLink s h l →
      ∃ t, exec .setLinkStatus s = .next t ∧ t = { s with links := t.links, port := t.port, out := t.out } ∧
        LinksAgreeBut h.slot s t ∧ HoldsLink s t h.slot { l with status := st } ∧ OutputsSettled t ∧
        Replied s t 0x32#8 d .ok [BitVec.ofNat 8 (linkStatusCode l.status)]) ∧
    ∀ s h d l, Taking s (.readLink h) d → NamesLink s h l →
      ∃ t, exec .readLink s = .next t ∧ t = { s with links := t.links, port := t.port, out := t.out } ∧
        LinksAgreeBut h.slot s t ∧ HoldsLink s t h.slot { l with noteLimit := false, noteTableFull := false } ∧
        OutputsSettled t ∧
        Replied s t 0x34#8 d .ok
          (linkImage h l
            ((occupied s).countP fun e => decide (e.2.link = some h ∧ e.2.state = .scheduled))
            ((occupied s).countP fun e => decide (e.2.link = some h ∧ e.2.state.isFinished = false)))

/-- REMOVE_LINK frees the link's slot, which keeps its last tag. With KEEP every booking of the link loses its reference.
With WITHDRAW its SCHEDULED bookings are freed, the others lose the reference, and the Planner is stale. The reply carries
the counts. A link handle out of range or not current is refused, and so is a disposal of neither value, which either row
completes (R48, R54, R55; log entry 5). -/
def Obligations.RemoveLinkDealsWithItsBookings : Prop :=
  (∀ s h disposal d, Taking s (.removeLink h disposal) d → 1 < disposal →
    ∀ i, i = .removeLinkKeep ∨ i = .removeLinkWithdraw →
      ∃ t, exec i s = .next t ∧ t = { s with port := t.port } ∧ Replied s t 0x33#8 d .badValue []) ∧
  (∀ s h disposal d c, Taking s (.removeLink h disposal) d → disposal ≤ 1 → linkRefusal s h = some c →
    RefusedWith s (.removeLink h disposal) d c) ∧
  (∀ s h d l, Taking s (.removeLink h 0) d → NamesLink s h l →
    ∃ t, exec .removeLinkKeep s = .next t ∧
      t = { s with bookings := t.bookings, links := t.links, port := t.port, out := t.out } ∧
      LinksAgreeBut h.slot s t ∧ t.links[h.slot]? = some ⟨linkTagAt s h.slot, none⟩ ∧
      (∀ i : Nat, t.bookings[i]? = (s.bookings[i]?).map (unlinkedSlot h)) ∧
      OutputsSettled t ∧
      Replied s t 0x33#8 d .ok [BitVec.ofNat 8 ((occupied s).countP fun e => decide (e.2.link = some h))]) ∧
    ∀ s h d l, Taking s (.removeLink h 1) d → NamesLink s h l →
      ∃ t, exec .removeLinkWithdraw s = .next t ∧
        t = { s with bookings := t.bookings, links := t.links, planner := { s.planner with stale := true },
                     port := t.port, out := t.out } ∧
        LinksAgreeBut h.slot s t ∧ t.links[h.slot]? = some ⟨linkTagAt s h.slot, none⟩ ∧
        (∀ i : Nat, t.bookings[i]? = (s.bookings[i]?).map (withdrawnSlot h)) ∧
        OutputsSettled t ∧
        Replied s t 0x33#8 d .ok
          [BitVec.ofNat 8 ((occupied s).countP fun e => decide (e.2.link = some h ∧ e.2.state = .scheduled)),
            BitVec.ofNat 8 ((occupied s).countP fun e => decide (e.2.link = some h ∧ e.2.state ≠ .scheduled))]

/-- ANNOUNCE: a refused value gives BAD_VALUE; with 16 announcements queued, QUEUE_FULL; else the announcement joins the
tail with its clamped duration, and the reply carries the depth. Nothing but the queue and the port changes (R62, R63). -/
def Obligations.AnnounceJoinsTheTail : Prop :=
  ∀ s f d, Taking s (.announce f) d →
    ∃ t, exec .announce s = .next t ∧ t = { s with queue := t.queue, port := t.port } ∧
      if ((1 ≤ f.channel ∧ f.channel ≤ 9999) ∧ f.event.isSome = true ∧ f.duration ≠ 0 ∧ f.series ≠ some 0 ∧
          f.episode ≠ some 0 ∧ f.status ≤ 2) then
        if s.queue.length < 16 then
          (∃ a, t.queue = s.queue ++ [a] ∧ a.channel = f.channel ∧ some a.event = f.event ∧ a.start = f.start ∧
            a.duration = max 60 (min 86400 f.duration) ∧ a.series = f.series ∧ a.episode = f.episode ∧
            a.isRepeat = f.isRepeat ∧ a.premiere = f.premiere ∧ runningStatusCode a.status = f.status) ∧
          Replied s t 0x38#8 d (acceptedCode (decide (max 60 (min 86400 f.duration) ≠ f.duration)))
            [BitVec.ofNat 8 (s.queue.length + 1)]
        else t.queue = s.queue ∧ Replied s t 0x38#8 d .queueFull []
      else t.queue = s.queue ∧ Replied s t 0x38#8 d .badValue []

/-! ### The Series Matcher -/

/-- Step 1 on a SCHEDULED booking: the matched showing takes the announced start and duration, with the version raised and
the Planner stale when they changed, and the running status is stored when the primary matched (R64, R68, R69, R71). -/
def Obligations.MatcherMovesAScheduledShowing : Prop :=
  ∀ s a rest i b u v, s.queue = a :: rest → PairsUnique s → bookingAt s i = some b → b.state = .scheduled →
    showingNamed b u = some v → pairNamed b u = some (a.channel, a.event) →
    ∃ t w b1, exec .matcherEvent s = .next t ∧ w = { v with start := a.start, duration := a.duration } ∧
      b1 = (match u with
        | .primary => { b with primary := w, runningStatus := a.status }
        | .alternative => { b with alternative := some w }) ∧
      t = { s with queue := rest, bookings := t.bookings, planner := t.planner, out := t.out } ∧
      SlotsAgreeBut i s t ∧
      HoldsBooking s t i
        { b1 with version := if w = v then b.version else raisedVersion s ⟨i, tagAt s i⟩ b } ∧
      t.planner = { s.planner with stale := s.planner.stale || decide (w ≠ v) } ∧ OutputsSettled t

/-- Step 1 on a booking that is not SCHEDULED: a finished booking, and a running one whose showing in use did not match,
stay as they are; a running one whose showing in use matched keeps its start and takes the duration and the status. A changed
duration raises the version and moves the end: a close point ahead is stored, with the Planner stale when it differs; one
already reached fails a STARTING booking with NO_CONFIRM, and extends or completes a RECORDING one by the extension check; and
while the close event is due the close point stays (R6, R70, R71, R72, R145, R147, R148). That the extension check of a close
in the same event reads the announced running status is the model's reading, DEDUCED from R147 and R148 (log entry 24). -/
def Obligations.MatcherUpdatesARunningBooking : Prop :=
  ∀ s a rest i b u v, s.queue = a :: rest → PairsUnique s → bookingAt s i = some b → b.state ≠ .scheduled →
    showingNamed b u = some v → pairNamed b u = some (a.channel, a.event) →
    (b.state.isFinished = true ∨ (∃ r ∈ b.running.toList, r.used ≠ u) →
      ∃ t, exec .matcherEvent s = .next t ∧ t = { s with queue := rest, out := t.out } ∧ OutputsSettled t) ∧
    ∀ r, b.state.isRunning = true → b.running = some r → r.used = u →
      ∃ t w b0 b1, exec .matcherEvent s = .next t ∧ w = { v with duration := a.duration } ∧
        b0 = (match u with
          | .primary => { b with primary := w }
          | .alternative => { b with alternative := some w }) ∧
        b1 = { b0 with
               runningStatus := a.status
               version := if w = v then b.version else raisedVersion s ⟨i, tagAt s i⟩ b } ∧
        t = { s with queue := rest, bookings := t.bookings, links := t.links, planner := t.planner,
                     out := t.out } ∧
        SlotsAgreeBut i s t ∧ OutputsSettled t ∧
        (w = v → HoldsBooking s t i b1 ∧ t.planner = s.planner ∧ t.links = s.links) ∧
        (w ≠ v → EndMoved s t i b1 r w r.postAllowance)

/-- Step 2: an announcement whose pair is in no booking is consumed with no effect when it carries no series id or one that
no link carries, or when its link is DORMANT and it is no premiere; a premiere on a channel the link does not take, or of a
showing that has ended, wakes the link and does no more (R68, R73, R74, R75, R84). -/
def Obligations.MatcherPassesOverAnnouncements : Prop :=
  ∀ s a rest, s.queue = a :: rest → ¬ PairStands s none (some (a.channel, a.event)) → SeriesUnique s →
    ((∀ e ∈ occupiedLinks s, some e.2.seriesId ≠ a.series) →
      ∃ t, exec .matcherEvent s = .next t ∧ t = { s with queue := rest, out := t.out } ∧ OutputsSettled t) ∧
    ∀ e ∈ occupiedLinks s, some e.2.seriesId = a.series →
      (e.2.status = .dormant → a.premiere = false →
        ∃ t, exec .matcherEvent s = .next t ∧ t = { s with queue := rest, out := t.out } ∧ OutputsSettled t) ∧
      (e.2.status = .active ∨ a.premiere = true →
        (∃ c ∈ e.2.preference.toList, c ≠ a.channel) ∨
          (s.clock.valid = true ∧ satAdd a.start a.duration ≤ s.clock.seconds) →
        ∃ t, exec .matcherEvent s = .next t ∧ t = { s with queue := rest, links := t.links, out := t.out } ∧
          LinksAgreeBut e.1.slot s t ∧ HoldsLink s t e.1.slot { e.2 with status := .active } ∧ OutputsSettled t)

/-- Step 3: an episode id of the history gives the link's SCHEDULED booking of that episode an alternative showing when it
has none, with its version raised and the Planner stale, and does nothing otherwise (R76, R77). -/
def Obligations.MatcherAttachesAnAlternative : Prop :=
  ∀ s a rest h l id, s.queue = a :: rest → ReachesStepThree s a h l → a.episode = some id → id ∈ l.history →
    ∃ t, exec .matcherEvent s = .next t ∧
      t = { s with queue := rest, bookings := t.bookings, links := t.links, planner := t.planner, out := t.out } ∧
      LinksAgreeBut h.slot s t ∧ HoldsLink s t h.slot { l with status := .active } ∧ OutputsSettled t ∧
      ((∀ e ∈ occupied s, e.2.state = .scheduled → e.2.link = some h → e.2.episode ≠ some id) →
        t.bookings = s.bookings ∧ t.planner = s.planner) ∧
      ∀ e ∈ occupied s, e.2.state = .scheduled → e.2.link = some h → e.2.episode = some id →
        (∀ f ∈ occupied s, f.2.state = .scheduled → f.2.link = some h → f.2.episode = some id →
          f.1.slot = e.1.slot) →
        (e.2.alternative.isSome = true → t.bookings = s.bookings ∧ t.planner = s.planner) ∧
        (e.2.alternative = none →
          SlotsAgreeBut e.1.slot s t ∧
          HoldsBooking s t e.1.slot
            { e.2 with
              alternative := some ⟨a.channel, some a.event, a.start, a.duration⟩
              version := raisedVersion s e.1 e.2 } ∧
          t.planner = { s.planner with stale := true })

/-- Steps 4 and 5 for an announcement whose episode id is not in the history: a repeat under NEW_ONLY does nothing; at the
keep-ahead the LIMIT note is set; with no free slot the TABLE_FULL note; with a full history of live episodes the LIMIT
note; else the booking of R82 takes the lowest free slot, its id joins the history as the newest after the eviction of R59,
and the Planner is stale (R59, R61, R78, R79, R80, R81, R82). -/
def Obligations.MatcherBooksAnEpisode : Prop :=
  ∀ s a rest h l, s.queue = a :: rest → ReachesStepThree s a h l → (∀ id ∈ a.episode.toList, id ∉ l.history) →
    ∃ t l1, exec .matcherEvent s = .next t ∧ l1 = { l with status := .active } ∧
      t = { s with queue := rest, bookings := t.bookings, links := t.links, planner := t.planner, out := t.out } ∧
      LinksAgreeBut h.slot s t ∧ OutputsSettled t ∧
      if a.isRepeat = true ∧ l.policy = .newOnly then
        HoldsLink s t h.slot l1 ∧ t.bookings = s.bookings ∧ t.planner = s.planner
      else if l.keepAhead ≤ (occupied s).countP fun e => decide (e.2.link = some h ∧ e.2.state = .scheduled) then
        HoldsLink s t h.slot { l1 with noteLimit := true } ∧ t.bookings = s.bookings ∧ t.planner = s.planner
      else if ∀ sl ∈ s.bookings, sl.booking.isSome = true then
        HoldsLink s t h.slot { l1 with noteTableFull := true } ∧ t.bookings = s.bookings ∧ t.planner = s.planner
      else if 8 ≤ l.history.length ∧ a.episode.isSome = true ∧
          ∀ x ∈ l.history, ∃ e ∈ occupied s, isLiveEpisode h x e.2 = true then
        HoldsLink s t h.slot { l1 with noteLimit := true } ∧ t.bookings = s.bookings ∧ t.planner = s.planner
      else
        ∃ slot, bookingAt s slot = none ∧ slot < s.bookings.length ∧
          (∀ i, i < slot → (bookingAt s i).isSome = true) ∧
          t.bookings = s.bookings.set slot
            ⟨nextBookingTag s slot, some
              { origin := .series, link := some h, isRepeat := a.isRepeat
                primary := ⟨a.channel, some a.event, a.start, a.duration⟩, alternative := none,
                episode := a.episode, prePad := l.prePad, postPad := l.postPad, priority := l.priority,
                follow := l.follow, runningStatus := a.status, extensionUsed := 0, version := 0,
                state := .scheduled, finishReason := none, installed := none, heldBack := false,
                lateStart := false, clashMark := false, running := none, startStamp := none, endStamp := none,
                confirmTimer := none, closeReached := false }⟩ ∧
          t.planner = { s.planner with stale := true } ∧
          ∃ kept, HoldsLink s t h.slot { l1 with history := kept ++ a.episode.toList } ∧
            (l.history.length < 8 ∨ a.episode = none → kept = l.history) ∧
            (8 ≤ l.history.length → a.episode.isSome = true →
              ∃ before id after, l.history = before ++ id :: after ∧ kept = before ++ after ∧
                (∀ x ∈ before, ∃ e ∈ occupied s, isLiveEpisode h x e.2 = true) ∧
                ∀ e ∈ occupied s, isLiveEpisode h id e.2 = false)

/-! ### Merit and the pass -/

/-- The merit of a booking is its exact weighted sum saturated to 16 bits, with the indicator set exactly when the sum lay
outside; with weights and fields in range the sum lies between -185,600 and 184,150 (R87, R88, R89, R91). -/
def Obligations.MeritIsTheSaturatedSum : Prop :=
  ∀ (p : Policy) (h : Handle) (b : Booking) (z : Int),
    z = p.w1 * b.priority +
          p.w2 * (if b.origin = .manual then 2 else if b.isRepeat then 0 else 1) +
          p.w3 * (if b.alternative.isSome then 1 else 0) + p.w4 * (b.primary.duration / 60 : Nat) →
    (orderEntry p h b).handle = h ∧
      (orderEntry p h b).merit = (if 32767 < z then 32767 else if z < -32768 then -32768 else z) ∧
      MeritInRange (orderEntry p h b).merit ∧
      ((orderEntry p h b).clamped = true ↔ z < -32768 ∨ 32767 < z) ∧
      (PolicyWf p → FieldsWf b → -185600 ≤ z ∧ z ≤ 184150)

/-- The placement order holds every SCHEDULED booking once, with its merit: descending merit, then the earlier padded start
of the primary, then the lower slot (R92, R93). -/
def Obligations.PlacementOrderFollowsMerit : Prop :=
  ∀ s,
    (placementOrder s).Perm
        (((occupied s).filter fun e => decide (e.2.state = .scheduled)).map fun e =>
          orderEntry s.policy e.1 e.2) ∧
      (placementOrder s).Pairwise fun x y =>
        ∀ b c, bookingOf s x.handle = some b → bookingOf s y.handle = some c →
          y.merit < x.merit ∨
            (x.merit = y.merit ∧
              (b.primary.start - b.prePad < c.primary.start - c.prePad ∨
                (b.primary.start - b.prePad = c.primary.start - c.prePad ∧ x.handle.slot < y.handle.slot)))

/-- A pass begins: STEP_0 in AUTO mode with the stale flag set, PASS_ABANDON with the abandonment counted, and PLAN_NOW in
either mode. PLAN_NOW during a pass changes nothing. A planner event that is not due is not taken (R101, R103, R104, R105,
R118; log entry 1). -/
def Obligations.PassBeginsWithStepZero : Prop :=
  (∀ s, s.planner.pass = none → s.policy.mode = .auto → s.planner.stale = true →
    exec .step0 s = .next { s with planner := begunPlanner s s.planner.abandoned }) ∧
    (∀ s, s.planner.pass.isSome = true ∨ s.policy.mode = .deferred ∨ s.planner.stale = false →
      exec .step0 s = .next s) ∧
    (∀ s, s.planner.pass.isSome = true → Abandoning s →
      exec .passAbandon s = .next { s with planner := begunPlanner s (s.planner.abandoned + 1) }) ∧
    (∀ s, s.planner.pass = none ∨ ¬ Abandoning s → exec .passAbandon s = .next s) ∧
    (∀ s d, Taking s .planNow d → s.planner.pass = none →
      ∃ t, exec .planNow s = .next t ∧
        t = { s with planner := begunPlanner s s.planner.abandoned, port := t.port } ∧
        Replied s t 0x40#8 d .ok (0x01#8 :: twoBytes s.planner.revision)) ∧
    ∀ s d, Taking s .planNow d → s.planner.pass.isSome = true →
      ∃ t, exec .planNow s = .next t ∧ t = { s with port := t.port } ∧
        Replied s t 0x40#8 d .ok (0x00#8 :: twoBytes s.planner.revision)

/-- A booking step takes the next handle of the order: a SCHEDULED booking is evaluated, with its result recorded and, when
placed, its occupant made; a running one becomes a pin; a finished one or a handle that is not current leaves the pass
record as it stands (R105, R106, R116). -/
def Obligations.BookingStepTakesOneEntry : Prop :=
  ∀ s p e, s.planner.pass = some p → ¬ Abandoning s → s.planner.stepsDone < s.planner.stepsTotal →
    p.order[s.planner.stepsDone]? = some e →
    ∃ q : PassRecord,
      exec .bookingStep s =
          .next
            { s with
              planner :=
                { s.planner with
                  pass := some { p with occupants := q.occupants, results := q.results }
                  stepsDone := s.planner.stepsDone + 1, lastEvaluated := some e.handle } } ∧
        ((∀ b, bookingOf s e.handle = some b → b.state.isFinished = true) →
          q.occupants = p.occupants ∧ q.results = p.results) ∧
        (∀ b r, bookingOf s e.handle = some b → b.state = .starting ∨ b.state = .recording → b.running = some r →
          q.results = p.results ∧
            q.occupants =
              p.occupants ++
                [⟨r.tuner, max r.actualOpen (s.planner.passTime.getD 0), some r.closePoint, r.key⟩]) ∧
        ∀ b, bookingOf s e.handle = some b → b.state = .scheduled →
          ∃ v key, Board.evaluate ⟨p.occupants, p.streamLimit, s.planner.passTime.getD 0⟩ b (resolve s) = (v, key) ∧
            q.results = p.results ++ [⟨e.handle, ⟨v, b.version, e.merit, e.clamped⟩⟩] ∧
            q.occupants =
              p.occupants ++
                (match v, key with
                  | .placed w, some k => [⟨w.tuner, w.openAt, some w.closeAt, k⟩]
                  | _, _ => [])

/-- A window fits on a tuner for a key exactly when every instant it covers is free: every occupant of the tuner that covers
the instant carries the key, and fewer than the stream limit cover it. An empty window fits (R107). -/
def Obligations.FitIsInstantByInstant : Prop :=
  ∀ (bd : Board) (T : Tuner) (key : MuxKey) (a b : Nat),
    (bd.fits T key a b = true ↔
        ∀ i, a ≤ i → i < b →
          (∀ o ∈ bd.occupants, o.tuner = T → o.openAt ≤ i → (∀ c ∈ o.closeAt.toList, i < c) → o.key = key) ∧
            (bd.occupants.countP fun o =>
              decide (o.tuner = T ∧ o.openAt ≤ i ∧ ∀ c ∈ o.closeAt.toList, i < c)) < bd.limit) ∧
      (b ≤ a → bd.fits T key a b = true)

/-- The trimmed window keeps all that fits next to the core: its open is the earliest instant from the padded open on from
which the window up to the core fits, and its close the latest instant up to the padded close to which the window from the
core end fits (R112). -/
def Obligations.TrimKeepsTheMost : Prop :=
  ∀ (bd : Board) (T : Tuner) (key : MuxKey),
    (∀ P C, P ≤ C →
      P ≤ bd.trimmedOpen T key P C ∧ bd.trimmedOpen T key P C ≤ C ∧
        bd.fits T key (bd.trimmedOpen T key P C) C = true ∧
        ∀ a, P ≤ a → a ≤ C → bd.fits T key a C = true → bd.trimmedOpen T key P C ≤ a) ∧
      ∀ E Q, E ≤ Q →
        E ≤ bd.trimmedClose T key E Q ∧ bd.trimmedClose T key E Q ≤ Q ∧
          bd.fits T key E (bd.trimmedClose T key E Q) = true ∧
          ∀ b, E ≤ b → b ≤ Q → bd.fits T key E b = true → b ≤ bd.trimmedClose T key E Q

/-- A showing tried: UNREACHABLE without a route or with an empty order; else LAPSED with an empty clipped padded window;
else placed full on the first tuner of its order where that window fits; else trimmed on the tuner with the longest trimmed
window, the earlier in the order of equals, when its clipped core is not empty and fits somewhere; else not fitted. The
order puts first the eligible tuners that carry an overlapping occupant of the key, the FIRM hold on it being one, and within
each group tuner 0 comes before tuner 1. The outcome of the booking follows from primary and alternative (R108 to R115). That a
showing whose padded window is empty before any clipping, one at the top of station time with pre-pad 0, is LAPSED whatever the
clock is the model's choice of R109 over the words of R115 (log entry 25). -/
def Obligations.EvaluationFollowsTheTable : Prop :=
  (∀ (bd : Board) (v : Showing) (prePad postPad : Nat), bd.tryShowing v prePad postPad none = .unreachable) ∧
    (∀ (bd : Board) (v : Showing) (prePad postPad : Nat) (r : Route) (w : Tried) (trial : Trial),
      w = ⟨r.key, r.eligible, max (v.start - prePad) bd.passTime, paddedEnd v postPad, max v.start bd.passTime,
            coreEnd v⟩ →
      trial = bd.tryShowing v prePad postPad (some r) →
      (r.eligible.order = [] → trial = .unreachable) ∧
        (r.eligible.order ≠ [] → w.paddedClose ≤ w.paddedOpen → trial = .lapsed) ∧
        (r.eligible.order ≠ [] → w.paddedOpen < w.paddedClose →
          (∀ before T after, bd.tunerOrder w = before ++ T :: after →
            bd.fits T w.key w.paddedOpen w.paddedClose = true →
            (∀ U ∈ before, bd.fits U w.key w.paddedOpen w.paddedClose = false) →
            trial = .placed true T w.paddedOpen w.paddedClose w.key) ∧
          ((∀ U ∈ bd.tunerOrder w, bd.fits U w.key w.paddedOpen w.paddedClose = false) →
            (w.coreClose ≤ w.coreOpen ∨ (∀ U ∈ bd.tunerOrder w, bd.fits U w.key w.coreOpen w.coreClose = false) →
              trial = .notFitted) ∧
            (w.coreOpen < w.coreClose → (∃ U ∈ bd.tunerOrder w, bd.fits U w.key w.coreOpen w.coreClose = true) →
              ∃ before T after open' close', bd.tunerOrder w = before ++ T :: after ∧
                bd.fits T w.key w.coreOpen w.coreClose = true ∧
                open' = bd.trimmedOpen T w.key w.paddedOpen w.coreOpen ∧
                close' = bd.trimmedClose T w.key w.coreClose w.paddedClose ∧
                trial = .placed false T open' close' w.key ∧
                ∀ U, bd.fits U w.key w.coreOpen w.coreClose = true →
                  (U ∈ before →
                    bd.trimmedClose U w.key w.coreClose w.paddedClose -
                      bd.trimmedOpen U w.key w.paddedOpen w.coreOpen < close' - open') ∧
                  (U ∈ after →
                    bd.trimmedClose U w.key w.coreClose w.paddedClose -
                      bd.trimmedOpen U w.key w.paddedOpen w.coreOpen ≤ close' - open'))))) ∧
    (∀ (bd : Board) (w : Tried) (T : Tuner),
      T ∈ bd.tunerOrder w ↔ w.eligible.has T = true) ∧
    (∀ (bd : Board) (w : Tried), (bd.tunerOrder w).Nodup ∧
      (bd.tunerOrder w).Pairwise fun T U =>
        (CarriesTheKey bd w U → CarriesTheKey bd w T) ∧
          ((CarriesTheKey bd w T ↔ CarriesTheKey bd w U) → T = .tuner0 ∧ U = .tuner1)) ∧
    ∀ (bd : Board) (b : Booking) (route : Nat → Option Route) (p : Trial) (a : Option Trial) (out : Verdict),
      p = bd.tryShowing b.primary b.prePad b.postPad (route b.primary.channel) →
      a = (b.alternative.map fun v => bd.tryShowing v b.prePad b.postPad (route v.channel)) →
      out = (bd.evaluate b route).1 →
      (∀ T x y key, p = .placed true T x y key → bd.evaluate b route = (.placed ⟨.placed, T, x, y⟩, some key)) ∧
        (∀ T x y key, p = .placed false T x y key →
          bd.evaluate b route = (.placed ⟨.trimmed, T, x, y⟩, some key)) ∧
        ((∀ full T x y key, p ≠ .placed full T x y key) →
          (∀ full T x y key, a = some (.placed full T x y key) →
            bd.evaluate b route = (.placed ⟨.onAlternative, T, x, y⟩, some key)) ∧
          ((∀ full T x y key, a ≠ some (.placed full T x y key)) →
            (bd.evaluate b route).2 = none ∧
              (p = .notFitted ∨ a = some .notFitted → out = .clashed) ∧
              (p = .unreachable → a ≠ some .notFitted → out = .unreachable) ∧
              (p = .lapsed → a ≠ some .notFitted → out = .lapsed)))

/-- The install writes each result into its booking while it is SCHEDULED, whole, with the clash mark set when the outcome
becomes CLASHED and cleared when it leaves CLASHED, clears every held-back indicator, and ends the pass: the revision goes
up by one, the count is 0, and the pass values stay readable (R120, R121, R122). -/
def Obligations.InstallWritesTheResults : Prop :=
  ∀ s p, s.planner.pass = some p → ¬ Abandoning s → s.planner.stepsTotal ≤ s.planner.stepsDone →
    ∃ t, exec .install s = .next t ∧
      t = { s with
            bookings := t.bookings, out := t.out
            planner :=
              { s.planner with pass := none, revision := (s.planner.revision + 1) % 65536, abandoned := 0 } } ∧
      OutputsSettled t ∧ t.bookings.length = s.bookings.length ∧
      ∀ (i tag : Nat),
        (s.bookings[i]? = some ⟨tag, none⟩ → t.bookings[i]? = some ⟨tag, none⟩) ∧
        ∀ b, SlotHolds s i tag b →
          (b.state ≠ .scheduled ∨ (∀ q ∈ p.results, q.handle ≠ ⟨i, tag⟩) →
            SlotHolds t i tag { b with heldBack := false }) ∧
          ∀ q ∈ p.results, q.handle = ⟨i, tag⟩ → (∀ q' ∈ p.results, q'.handle = ⟨i, tag⟩ → q' = q) →
            b.state = .scheduled →
            ∃ c, SlotHolds t i tag c ∧
              c = { b with installed := some q.evaluation, heldBack := false, clashMark := c.clashMark } ∧
              (q.evaluation.verdict = .clashed → ¬ WasClashed b → c.clashMark = true) ∧
              (q.evaluation.verdict ≠ .clashed → WasClashed b → c.clashMark = false) ∧
              ((q.evaluation.verdict = .clashed ↔ WasClashed b) → c.clashMark = b.clashMark)

/-- READ_PLAN lists the FIRM hold of the tuner, its running bookings by actual open, and the current placements that name it
and open at or after from-time by open, ties by slot; at most six, with the more indication. Each item is 14 bytes with its
fields at their offsets and absent ones zeros (R125, R192, R193, section 12.8). -/
def Obligations.PlanListsTheTuner : Prop :=
  (∀ (i : PlanItem) (img : List Byte), img = planItemBytes i →
    img.length = 14 ∧
    fieldAt img 0 1 =
      i.handle.isNone.toNat + 2 * i.openAt.isSome.toNat + 4 * i.closeAt.isSome.toNat + 8 * i.key.isSome.toNat ∧
    (∀ h ∈ i.handle.toList, fieldAt img 1 1 = h.slot % 256 ∧ fieldAt img 2 1 = h.tag % 256) ∧
    (i.handle = none → fieldAt img 1 2 = 0) ∧ fieldAt img 3 4 = i.openAt.getD 0 % 4294967296 ∧
    fieldAt img 7 4 = i.closeAt.getD 0 % 4294967296 ∧ (∀ k ∈ i.key.toList, fieldAt img 11 2 = keyValue k) ∧
    (i.key = none → fieldAt img 11 2 = 0) ∧ fieldAt img 13 1 = i.outcome % 256) ∧
  (∀ s fromTime d, ∀ T : Tuner, Taking s (.readPlan (tunerCode T) fromTime) d →
    ∃ t running placed all, exec .readPlan s = .next t ∧ t = { s with port := t.port } ∧
      running.Perm
        ((occupied s).flatMap fun e =>
          if e.2.state = .starting ∨ e.2.state = .recording then
            (e.2.running.toList.filter fun r => decide (r.tuner = T)).map fun r =>
              ⟨some e.1, some r.actualOpen, some r.closePoint, some r.key, 7⟩
          else []) ∧
      running.Pairwise ListedBefore ∧
      placed.Perm
        ((occupied s).flatMap fun e =>
          ((currentPlacement e.2).toList.filter fun p => decide (p.tuner = T ∧ fromTime ≤ p.openAt)).map fun p =>
            ⟨some e.1, some p.openAt, some p.closeAt,
              ((showingNamed e.2 p.kind.used).bind fun v => resolve s v.channel).map fun r => r.key,
              placedCode p.kind⟩) ∧
      placed.Pairwise ListedBefore ∧
      all =
        ((firmHold s T).toList.map fun h => (⟨none, h.takenAt, none, some h.key, 0⟩ : PlanItem)) ++ running ++ placed ∧
      Replied s t 0x42#8 d .ok
        (twoBytes s.planner.revision ++ [if s.planner.stale then 0x01#8 else 0x00#8] ++
          [if 6 < all.length then 0x01#8 else 0x00#8] ++ [BitVec.ofNat 8 (min 6 all.length)] ++
          (all.take 6).flatMap planItemBytes)) ∧
    ∀ s tuner fromTime d, Taking s (.readPlan tuner fromTime) d → 1 < tuner →
      ∃ t, exec .readPlan s = .next t ∧ t = { s with port := t.port } ∧ Replied s t 0x42#8 d .badValue []

/-! ### The Window Timer -/

/-- An open event that is due starts the booking when the open check passes: state, start stamp, running placement, confirm
timer, late start and running status are written and a conflicting SOFT hold is dropped; else the booking is held back and
nothing else changes. An event that is not due is not taken (R44, R129, R131, R134, R135, R136; log entry 1). -/
def Obligations.OpenEventStartsOrHoldsBack : Prop :=
  (∀ s slot, (∀ b p, bookingAt s slot = some b → currentPlacement b = some p →
      b.heldBack = true ∨ reached s (lapsePoint b) = true ∨ reached s p.openAt = false) →
    exec (.openEvent slot) s = .next s) ∧
    ∀ s slot b p, bookingAt s slot = some b → currentPlacement b = some p → b.heldBack = false →
      reached s (lapsePoint b) = false → reached s p.openAt = true →
      ∃ t, exec (.openEvent slot) s = .next t ∧
        t = { s with bookings := t.bookings, holds := t.holds, out := t.out } ∧
        SlotsAgreeBut slot s t ∧ OutputsSettled t ∧
        ((¬ ∃ v route, OpensUnder s slot b p v route) →
          HoldsBooking s t slot { b with heldBack := true } ∧ t.holds = s.holds) ∧
        ∀ v route, OpensUnder s slot b p v route →
          ∃ close, close = satAdd (coreEnd v + (p.closeAt - coreEnd v)) b.extensionUsed ∧
            (WindowFits b p → b.extensionUsed = 0 → close = p.closeAt) ∧
            HoldsBooking s t slot
              { b with
                state := .starting, startStamp := some s.clock.seconds
                running := some ⟨p.tuner, route.key, p.kind.used, s.clock.seconds, p.closeAt - coreEnd v, close⟩
                confirmTimer := some ⟨s.clock.elapsed, s.policy.confirmTimeout⟩
                lateStart := decide (p.openAt < s.clock.seconds)
                runningStatus := if p.kind = .onAlternative then .unknown else b.runningStatus
                closeReached := false } ∧
            ∀ T, (T = p.tuner → (∃ hold ∈ (softHold s T).toList, StandsAgainst s slot T route.key hold) →
                t.holds.at T = ⟨none, .preempted⟩) ∧
              (T ≠ p.tuner ∨ (∀ hold ∈ (softHold s T).toList, ¬ StandsAgainst s slot T route.key hold) →
                t.holds.at T = s.holds.at T)

/-- CONFIRM of a STARTING booking makes it RECORDING, its timer discarded and the REC line of its tuner asserted; DECLINE
fails it with DECLINED; STOP of a running booking aborts it with STOPPED. In any other state they are answered TOO_LATE or
WRONG_STATE, and for a handle out of range or not current BAD_VALUE or STALE_HANDLE, and nothing changes (R3, R139, R140,
R142, R149). -/
def Obligations.ConfirmDeclineAndStop : Prop :=
  (∀ s h d b, Taking s (.confirm h) d → NamesBooking s h b → b.state = .starting →
    ∃ t, exec .confirm s = .next t ∧ t = { s with bookings := t.bookings, port := t.port, out := t.out } ∧
      SlotsAgreeBut h.slot s t ∧ HoldsBooking s t h.slot { b with state := .recording, confirmTimer := none } ∧
      OutputsSettled t ∧ Replied s t 0x48#8 d .ok [] ∧
      (∀ r ∈ b.running.toList, (match r.tuner with | .tuner0 => t.out.rec0 | .tuner1 => t.out.rec1) = true) ∧
      (t.out.causes.startWaiting = true ↔
        ∃ e ∈ occupied s, e.1.slot ≠ h.slot ∧ e.2.state = .starting)) ∧
    (∀ s h d b, Taking s (.decline h) d → NamesBooking s h b → b.state = .starting →
      ∃ t, exec .decline s = .next t ∧
        t = { s with bookings := t.bookings, links := t.links, planner := { s.planner with stale := true },
                     port := t.port, out := t.out } ∧
        SlotsAgreeBut h.slot s t ∧ HoldsBooking s t h.slot (asFinished s .failed (some .declined) b) ∧
        HistoryRemoved s t b ∧ OutputsSettled t ∧ Replied s t 0x49#8 d .ok []) ∧
    (∀ s h d b, Taking s (.stop h) d → NamesBooking s h b → b.state = .starting ∨ b.state = .recording →
      ∃ t, exec .stop s = .next t ∧
        t = { s with bookings := t.bookings, planner := { s.planner with stale := true }, port := t.port,
                     out := t.out } ∧
        SlotsAgreeBut h.slot s t ∧ HoldsBooking s t h.slot (asFinished s .aborted (some .stopped) b) ∧
        OutputsSettled t ∧ Replied s t 0x4A#8 d .ok []) ∧
    (∀ s h d b, NamesBooking s h b →
      (Taking s (.confirm h) d → b.state ≠ .starting →
        ∃ t, exec .confirm s = .next t ∧ t = { s with port := t.port } ∧
          Replied s t 0x48#8 d
            (if b.state = .failed ∧ b.finishReason = some .noConfirm then .tooLate else .wrongState) []) ∧
      (Taking s (.decline h) d → b.state ≠ .starting →
        ∃ t, exec .decline s = .next t ∧ t = { s with port := t.port } ∧
          Replied s t 0x49#8 d
            (if b.state = .failed ∧ b.finishReason = some .noConfirm then .tooLate else .wrongState) []) ∧
      (Taking s (.stop h) d → b.state ≠ .starting → b.state ≠ .recording →
        ∃ t, exec .stop s = .next t ∧ t = { s with port := t.port } ∧ Replied s t 0x4A#8 d .wrongState [])) ∧
    ∀ s h d c, handleRefusal s h = some c →
      ∀ r, r = .confirm h ∨ r = .decline h ∨ r = .stop h → Taking s r d →
        ∃ t, exec (completionOf r) s = .next t ∧ t = { s with port := t.port } ∧ Replied s t (kindOf r) d c []

/-- Timer events that are due: the expiry and the close of a STARTING booking fail it with NO_CONFIRM, the lapse of a
SCHEDULED one is MISSED, and the close of a RECORDING one extends it by 300 s when the extension check grants and completes
it otherwise. Each makes the Planner stale. One that is not due is not taken (R132, R133, R138, R144, R145, R149; log
entry 1). -/
def Obligations.TimerEventsFinishOrExtend : Prop :=
  (∀ s slot b, bookingAt s slot = some b →
    ((b.state = .starting ∧ ∃ timer ∈ b.confirmTimer.toList,
        timer.timeout ≤ (s.clock.elapsed + 4294967296 - timer.entry) % 4294967296) →
      ∃ t, exec (.confirmExpiry slot) s = .next t ∧
        t = { s with bookings := t.bookings, links := t.links, planner := { s.planner with stale := true },
                     out := t.out } ∧
        SlotsAgreeBut slot s t ∧ HoldsBooking s t slot (asFinished s .failed (some .noConfirm) b) ∧
        HistoryRemoved s t b ∧ OutputsSettled t) ∧
    (b.state = .starting → b.closeReached = true →
      ∃ t, exec (.closeEvent slot) s = .next t ∧
        t = { s with bookings := t.bookings, links := t.links, planner := { s.planner with stale := true },
                     out := t.out } ∧
        SlotsAgreeBut slot s t ∧ HoldsBooking s t slot (asFinished s .failed (some .noConfirm) b) ∧
        HistoryRemoved s t b ∧ OutputsSettled t) ∧
    (b.state = .scheduled → reached s (lapsePoint b) = true →
      ∃ t, exec (.lapseEvent slot) s = .next t ∧
        t = { s with bookings := t.bookings, links := t.links, planner := { s.planner with stale := true },
                     out := t.out } ∧
        SlotsAgreeBut slot s t ∧ HoldsBooking s t slot (asFinished s .missed none b) ∧
        HistoryRemoved s t b ∧ OutputsSettled t) ∧
    (∀ r v, b.state = .recording → b.closeReached = true → b.running = some r → showingNamed b r.used = some v →
      ∃ t close, exec (.closeEvent slot) s = .next t ∧
        close = satAdd (coreEnd v + r.postAllowance) (b.extensionUsed + 300) ∧
        t = { s with bookings := t.bookings, planner := { s.planner with stale := true }, out := t.out } ∧
        SlotsAgreeBut slot s t ∧ OutputsSettled t ∧
        (Extends s slot b r →
          HoldsBooking s t slot
            { b with extensionUsed := b.extensionUsed + 300, running := some { r with closePoint := close },
                     closeReached := reached s close }) ∧
        (¬ Extends s slot b r → HoldsBooking s t slot (asFinished s .completed none b)))) ∧
    ∀ s slot, (∀ b, bookingAt s slot = some b →
      (b.state ≠ .starting ∨ (∀ timer ∈ b.confirmTimer.toList,
          (s.clock.elapsed + 4294967296 - timer.entry) % 4294967296 < timer.timeout) →
        exec (.confirmExpiry slot) s = .next s) ∧
      (b.state.isRunning = false ∨ b.closeReached = false → exec (.closeEvent slot) s = .next s) ∧
      (b.state ≠ .scheduled ∨ reached s (lapsePoint b) = false → exec (.lapseEvent slot) s = .next s)) ∧
      (bookingAt s slot = none →
        exec (.confirmExpiry slot) s = .next s ∧ exec (.closeEvent slot) s = .next s ∧
          exec (.lapseEvent slot) s = .next s)

/-! ### The Station Clock -/

/-- A crystal count raises the divider, or makes the tick due when it would reach the length of the second. A tick raises W
unless it is at the top, the elapsed count, and moves the slew by one towards 0 when the second that ends ran in its
direction; a new second begins with its length fixed, close points at or before the new W are reached, and the Planner is
left alone. Counts wait for a due tick, and a tick waits for due Timer events (R130, R133, R158 to R161; the form of the
waiting is the model's, log entries 6, 7 and 8). -/
def Obligations.TicksAdvanceTheClock : Prop :=
  (∀ s, s.clock.tickDue = false →
    (s.clock.divider + 1 < s.clock.secondLength →
      exec .crystalCount s = .next { s with clock := { s.clock with divider := s.clock.divider + 1 } }) ∧
    (s.clock.secondLength ≤ s.clock.divider + 1 →
      exec .crystalCount s = .next { s with clock := { s.clock with tickDue := true } })) ∧
    (∀ s, s.clock.tickDue = true → exec .crystalCount s = .next s) ∧
    (∀ s, someTimerEventDue s = true → exec .tick s = .next s) ∧
    ∀ s, someTimerEventDue s = false →
      ∃ t slew, exec .tick s = .next t ∧
        slew =
          (if s.clock.secondSlew = 1 ∧ 0 < s.clock.slew then s.clock.slew - 1
          else if s.clock.secondSlew = -1 ∧ s.clock.slew < 0 then s.clock.slew + 1
          else s.clock.slew) ∧
        t = { s with
              bookings := s.bookings.map (slotAtClock t), out := t.out
              clock :=
                { s.clock with
                  seconds := if s.clock.seconds < 4294967295 then s.clock.seconds + 1 else 4294967295
                  elapsed := (s.clock.elapsed + 1) % 4294967296, divider := 0, tickDue := false, slew := slew
                  secondSlew := slew.sign, secondLength := (32768 + s.clock.trim - 512 * slew.sign).toNat } } ∧
        OutputsSettled t

/-- SET_TIME: a valid clock, no force and a difference within 128 sixty-fourths is a slew, which replaces the remaining slew
alone; else a step to the mark, which starts a second, validates the clock or sets the stepped flag, and makes the Planner
stale. The reply carries the kind and the saturated difference. Sixty-fourths above 63 or another force value is refused
(R157, R162, R163, R164, R165). -/
def Obligations.SetTimeStepsOrSlews : Prop :=
  (∀ s seconds part force d D, Taking s (.setTime seconds part (boolCode force)) d → part ≤ 63 →
    D = ((64 * seconds + part : Nat) : Int) - ((64 * s.clock.seconds + min 63 (s.clock.divider / 512) : Nat) : Int) →
    ∃ t, exec .setTime s = .next t ∧
      (s.clock.valid = true → force = false → -128 ≤ D → D ≤ 128 →
        t = { s with clock := { s.clock with slew := D }, port := t.port } ∧
          Replied s t 0x50#8 d .ok (0x02#8 :: signedFourBytes D)) ∧
      (s.clock.valid = false ∨ force = true ∨ D < -128 ∨ 128 < D →
        t = { s with
              bookings := s.bookings.map (slotAtClock t), planner := { s.planner with stale := true }
              port := t.port, out := t.out
              clock :=
                { s.clock with
                  valid := true, seconds := seconds, divider := 512 * part, slew := 0, tickDue := false
                  secondSlew := 0, secondLength := (32768 + s.clock.trim).toNat
                  stepped := s.clock.valid || s.clock.stepped } } ∧
          OutputsSettled t ∧
          Replied s t 0x50#8 d .ok
            ((if s.clock.valid then 0x01#8 else 0x00#8) ::
              signedFourBytes (max (-2147483648) (min 2147483647 D))))) ∧
    ∀ s seconds part force d, Taking s (.setTime seconds part force) d → 63 < part ∨ 1 < force →
      ∃ t, exec .setTime s = .next t ∧ t = { s with port := t.port } ∧ Replied s t 0x50#8 d .badValue []

/-! ### Reads and settings -/

/-- READ_CHANNEL, READ_HOLDS, READ_PLANNER, READ_POLICY and READ_CAUSES answer what stands and change nothing but the port;
READ_CLOCK answers the clock and clears the stepped flag (R32, R42, R124, R168, R179, R187). The layouts of READ_HOLDS and
READ_CAUSES are read from R192 (log entry 19). -/
def Obligations.ReadsAnswerTheState : Prop :=
  (∀ s channel d, Taking s (.readChannel channel) d →
    ∃ t, exec .readChannel s = .next t ∧ t = { s with port := t.port } ∧
      (channel = 0 ∨ 9999 < channel → Replied s t 0x22#8 d .badValue []) ∧
      (1 ≤ channel → channel ≤ 9999 → (∀ e ∈ s.map.entries, e.channel ≠ channel) →
        Replied s t 0x22#8 d .notFound []) ∧
      ((s.map.entries.map fun e => e.channel).Pairwise (· < ·) → 1 ≤ channel → channel ≤ 9999 →
        ∀ e ∈ s.map.entries, e.channel = channel →
          Replied s t 0x22#8 d .ok
            (twoBytes e.channel ++ twoBytes e.mux ++
              [BitVec.ofNat 8 e.band.val, BitVec.ofNat 8 (eligibleCode (s.map.bands.at e.band))] ++
              twoBytes s.map.entries.length))) ∧
    (∀ s d, Taking s .readHolds d →
      ∃ t, exec .readHolds s = .next t ∧ t = { s with port := t.port } ∧
        Replied s t 0x2A#8 d .ok
          ([s.holds.on0, s.holds.on1].flatMap fun r =>
            (match r.hold with
              | some h =>
                [0x01#8, BitVec.ofNat 8 (holdKindCode h.kind)] ++ twoBytes h.channel ++ twoBytes (keyCode h.key) ++
                  [if h.takenAt.isSome then 0x01#8 else 0x00#8] ++ fourBytes (h.takenAt.getD 0)
              | none => List.replicate 11 0) ++
              [BitVec.ofNat 8 (dropReasonCode r.lastDrop)])) ∧
    (∀ s d, Taking s .readPlanner d →
      ∃ t, exec .readPlanner s = .next t ∧ t = { s with port := t.port } ∧
        Replied s t 0x41#8 d .ok
          ([if s.planner.pass.isSome then 0x01#8 else 0x00#8, if s.policy.mode = .auto then 0x00#8 else 0x01#8,
              if s.planner.stale then 0x01#8 else 0x00#8] ++
            twoBytes s.planner.revision ++ [if s.planner.passTime.isSome then 0x01#8 else 0x00#8] ++
            fourBytes (s.planner.passTime.getD 0) ++
            [BitVec.ofNat 8 s.planner.stepsDone, BitVec.ofNat 8 s.planner.stepsTotal,
              if s.planner.lastEvaluated.isSome then 0x01#8 else 0x00#8,
              BitVec.ofNat 8 (s.planner.lastEvaluated.getD ⟨0, 0⟩).slot,
              BitVec.ofNat 8 (s.planner.lastEvaluated.getD ⟨0, 0⟩).tag,
              BitVec.ofNat 8 s.planner.abandoned])) ∧
    (∀ s d, Taking s .readPolicy d →
      ∃ t, exec .readPolicy s = .next t ∧ t = { s with port := t.port } ∧
        Replied s t 0x59#8 d .ok
          (([s.policy.w1, s.policy.w2, s.policy.w3, s.policy.w4].flatMap signedTwoBytes) ++
            [BitVec.ofNat 8 s.policy.streamLimit] ++ twoBytes s.policy.wakeLead ++ twoBytes s.policy.yieldLead ++
            twoBytes s.policy.confirmTimeout ++
            [BitVec.ofNat 8 (match s.policy.defaultBand with | none => 255 | some b => b.val),
              if s.policy.mode = .auto then 0x00#8 else 0x01#8])) ∧
    (∀ s d, Taking s .readCauses d →
      ∃ t, exec .readCauses s = .next t ∧ t = { s with port := t.port } ∧
        Replied s t 0x60#8 d .ok
          (((PerCause.toList s.out.causes).zip (PerCause.toList s.routings)).flatMap
              (fun c => [if c.1 then 0x01#8 else 0x00#8, BitVec.ofNat 8 (routingCode c.2)]) ++
            [BitVec.ofNat 8 ((occupied s).countP fun e => decide (e.2.state = .starting)),
              BitVec.ofNat 8 ((occupied s).countP fun e => e.2.clashMark),
              BitVec.ofNat 8 ((occupied s).countP fun e => e.2.state.isFinished),
              BitVec.ofNat 8 ((occupiedLinks s).countP fun e => e.2.noteLimit || e.2.noteTableFull),
              if s.out.attn then 0x01#8 else 0x00#8, if s.out.wakeRequest then 0x01#8 else 0x00#8])) ∧
    ∀ s d, Taking s .readClock d →
      ∃ t, exec .readClock s = .next t ∧
        t = { s with clock := { s.clock with stepped := false }, port := t.port, out := t.out } ∧
        OutputsSettled t ∧
        Replied s t 0x52#8 d .ok
          ([if s.clock.valid then 0x01#8 else 0x00#8] ++ fourBytes s.clock.seconds ++
            [BitVec.ofNat 8 (min 63 (s.clock.divider / 512))] ++ signedTwoBytes s.clock.trim ++
            signedTwoBytes s.clock.slew ++ [if s.clock.stepped then 0x01#8 else 0x00#8] ++ fourBytes s.clock.elapsed)

/-- SET_POLICY stores every field after clamping, makes the Planner stale when a weight, the stream limit or the default
band changed, or is refused whole. SET_ROUTING stores six routings or is refused. SET_TRIM stores the clamped trim.
ACK_CLASH clears the clash mark of the booking its handle names, in any state, and answers whether it did and how many marks
remain; with the mark clear, or a handle refused by R3, nothing changes but the port (R90, R167, R177, R178, R186,
R188). -/
def Obligations.SettingsAreStored : Prop :=
  (∀ s (f : PolicyFields) d, Taking s (.setPolicy f) d →
    (∀ w ∈ [f.w1, f.w2, f.w3, f.w4], -128 ≤ w ∧ w ≤ 127) → f.defaultBand ≤ 3 ∨ f.defaultBand = 255 → f.mode ≤ 1 →
    ∃ t, exec .setPolicy s = .next t ∧
      t = { s with
            policy := t.policy, port := t.port, out := t.out
            planner :=
              { s.planner with
                stale :=
                  s.planner.stale ||
                    decide
                      (f.w1 ≠ s.policy.w1 ∨ f.w2 ≠ s.policy.w2 ∨ f.w3 ≠ s.policy.w3 ∨ f.w4 ≠ s.policy.w4 ∨
                        t.policy.streamLimit ≠ s.policy.streamLimit ∨
                        t.policy.defaultBand ≠ s.policy.defaultBand) } } ∧
      (t.policy.w1 = f.w1 ∧ t.policy.w2 = f.w2 ∧ t.policy.w3 = f.w3 ∧ t.policy.w4 = f.w4) ∧
      t.policy.streamLimit = max 1 (min 3 f.streamLimit) ∧ t.policy.wakeLead = min 1800 f.wakeLead ∧
      t.policy.yieldLead = min 600 f.yieldLead ∧ t.policy.confirmTimeout = max 10 (min 255 f.confirmTimeout) ∧
      defaultBandCode t.policy.defaultBand = f.defaultBand ∧ modeCode t.policy.mode = f.mode ∧ OutputsSettled t ∧
      Replied s t 0x58#8 d
        (acceptedCode
          (decide
            (t.policy.streamLimit ≠ f.streamLimit ∨ t.policy.wakeLead ≠ f.wakeLead ∨
              t.policy.yieldLead ≠ f.yieldLead ∨ t.policy.confirmTimeout ≠ f.confirmTimeout)))
        (policyBytes t.policy)) ∧
    (∀ s (f : PolicyFields) d, Taking s (.setPolicy f) d →
      (∃ w ∈ [f.w1, f.w2, f.w3, f.w4], w < -128 ∨ 127 < w) ∨ (3 < f.defaultBand ∧ f.defaultBand ≠ 255) ∨ 1 < f.mode →
      ∃ t, exec .setPolicy s = .next t ∧ t = { s with port := t.port } ∧ Replied s t 0x58#8 d .badValue []) ∧
    (∀ s d, ∀ x : PerCause Routing,
      Taking s
        (.setRouting
          ⟨routingCode x.startWaiting, routingCode x.clash, routingCode x.ended, routingCode x.yield,
            routingCode x.clock, routingCode x.linkNote⟩) d →
      ∃ t, exec .setRouting s = .next t ∧ t = { s with routings := x, port := t.port, out := t.out } ∧
        OutputsSettled t ∧
        Replied s t 0x61#8 d .ok ((PerCause.toList x).map fun r => BitVec.ofNat 8 (routingCode r))) ∧
    (∀ s d, ∀ x : PerCause Nat, Taking s (.setRouting x) d → (∃ r ∈ PerCause.toList x, 2 < r) →
      ∃ t, exec .setRouting s = .next t ∧ t = { s with port := t.port } ∧ Replied s t 0x61#8 d .badValue []) ∧
    (∀ s trim d, Taking s (.setTrim trim) d →
      ∃ t stored, exec .setTrim s = .next t ∧
        stored = (if trim < -256 then -256 else if 255 < trim then 255 else trim) ∧
        t = { s with clock := { s.clock with trim := stored }, port := t.port } ∧
        Replied s t 0x51#8 d (acceptedCode (decide (stored ≠ trim))) (signedTwoBytes stored)) ∧
  (∀ s h d b, Taking s (.ackClash h) d → NamesBooking s h b →
    ∃ t, exec .ackClash s = .next t ∧
      (b.clashMark = true →
        t = { s with bookings := t.bookings, port := t.port, out := t.out } ∧ SlotsAgreeBut h.slot s t ∧
          HoldsBooking s t h.slot { b with clashMark := false } ∧ OutputsSettled t ∧
          Replied s t 0x62#8 d .ok
            [0x01#8, BitVec.ofNat 8 (((occupied s).countP fun e => e.2.clashMark) - 1)]) ∧
      (b.clashMark = false →
        t = { s with port := t.port } ∧
          Replied s t 0x62#8 d .ok [0x00#8, BitVec.ofNat 8 ((occupied s).countP fun e => e.2.clashMark)])) ∧
    ∀ s h d c, Taking s (.ackClash h) d → handleRefusal s h = some c →
      ∃ t, exec .ackClash s = .next t ∧ t = { s with port := t.port } ∧ Replied s t 0x62#8 d c []

/-! ### Resets -/

/-- CLEAR_ALL frees every booking and link with the last tags kept, empties the queue, drops every present hold with reason
RELEASED, abandons any pass uncounted and installs an empty plan with the stale flag set; map, clock, policy and routings
stay (R17, R22, R47, R65, R66, R128, R189). -/
def Obligations.ClearAllEmptiesTheTables : Prop :=
  ∀ s d, Taking s .clearAll d →
    ∃ t, exec .clearAll s = .next t ∧
      t = { s with
            bookings := s.bookings.map fun sl => ⟨sl.lastTag, none⟩
            links := s.links.map fun sl => ⟨sl.lastTag, none⟩
            queue := [], holds := t.holds, port := t.port, out := t.out
            planner :=
              { stale := true, abandoned := 0, revision := (s.planner.revision + 1) % 65536, pass := none,
                passTime := none, stepsDone := 0, stepsTotal := 0, lastEvaluated := none } } ∧
      (∀ T : Tuner, t.holds.at T =
        if (s.holds.at T).hold.isSome then ⟨none, .released⟩ else s.holds.at T) ∧
      OutputsSettled t ∧ t.out.rec0 = false ∧ t.out.rec1 = false ∧
      t.out.causes = ⟨false, false, false, false, !s.clock.valid || s.clock.stepped, false⟩ ∧
      Replied s t 0x63#8 d .ok []

/-- POWER_ON_RESET gives every block its power-on values: tables free with last tags 0, an empty map with every band on both
tuners, no hold, an IDLE Planner, an invalid clock at 0, the default policy and routings, no port flag, and CLOCK and ATTN
alone asserted; the status octet is 0x20. The levels that are driven from outside stay, with the queue of commands (log
entry 9). A change of HOSTAWAKE takes the level and derives the lines again (R21, R35, R47, R65, R66, R89, R126, R151, R170,
R175, R183, R190). -/
def Obligations.PowerOnResetTakesTheResetValues : Prop :=
  (∀ s, ∃ t, exec .powerOnReset s = .next t ∧
    t.bookings = List.replicate 128 ⟨0, none⟩ ∧ t.links = List.replicate 32 ⟨0, none⟩ ∧ t.queue = [] ∧
    t.map = ⟨[], ⟨⟨true, true⟩, ⟨true, true⟩, ⟨true, true⟩, ⟨true, true⟩⟩⟩ ∧
    t.holds = ⟨⟨none, .noDrop⟩, ⟨none, .noDrop⟩⟩ ∧
    t.planner = ⟨false, 0, 0, none, none, 0, 0, none⟩ ∧
    t.clock = ⟨false, 0, 0, 32768, 0, false, 0, 0, false, 0⟩ ∧
    t.policy = ⟨64, 32, -48, 0, 3, 180, 60, 60, none, .auto⟩ ∧
    t.routings = ⟨.attnWake, .attn, .attn, .attn, .attn, .attn⟩ ∧
    t.out = ⟨false, false, false, true, false, ⟨false, false, false, false, true, false⟩⟩ ∧
    (t.port.pendingReply = none ∧ t.port.inProcess = none ∧ t.port.rejected = false ∧ t.port.replyLost = false) ∧
    statusOctet t = 0x20#8 ∧
    (t.port.portReset = s.port.portReset ∧ t.hostAwake = s.hostAwake ∧ t.pending = s.pending)) ∧
    ∀ s level, ∃ t, exec (.hostawakeChange level) s = .next t ∧ t = { s with hostAwake := level, out := t.out } ∧
      OutputsSettled t

/-- The state after reset meets every law stated below. -/
def Obligations.ResetMeetsTheLaws : Prop :=
  OutputsSettled State.reset ∧ StoresWf State.reset ∧ ClockWf State.reset.clock ∧ PlanningWf State.reset ∧
    PresenceKept State.reset ∧ CountsKept State.reset ∧ KeysUnique State.reset ∧ LinksKept State.reset ∧
    TunersLawful State.reset ∧ TimersKept State.reset ∧ WindowsKept State.reset

/-! ### Laws that every step keeps -/

/-- The levels stay those the rules derive (R150, R151, R152, R182, R184, R185; that the model holds them as fields is log
entry 12). -/
def Obligations.OutputsStaySettled : Prop :=
  ∀ s t, OutputsSettled s → step s = .next t → OutputsSettled t

/-- The tables, the queue and the map stay well formed (R1, R2, R4, R5, R25, R48, R49, R58, R62, R63). -/
def Obligations.StoresStayWellFormed : Prop := ∀ s t, StoresWf s → step s = .next t → StoresWf t

/-- The clock, the policy and the planner stay in their ranges (section 9.1, section 10.5, section 7.1). -/
def Obligations.ClockAndPlannerStayInRange : Prop :=
  ∀ s t, ClockWf s.clock ∧ PlanningWf s ∧ (∀ q ∈ s.port.inProcess.toList, q.request.wellFormed = true) →
    step s = .next t →
    ClockWf t.clock ∧ PlanningWf t ∧ ∀ q ∈ t.port.inProcess.toList, q.request.wellFormed = true

/-- The optional fields of every booking keep following its state, and its counts stay in range (R6, R9, R91, R129, R145). -/
def Obligations.RecordsFollowTheirStates : Prop :=
  (∀ s t, PresenceKept s → step s = .next t → PresenceKept t) ∧ ∀ s t, CountsKept s → step s = .next t → CountsKept t

/-- Pairs and series ids stay unique, link references keep naming current links, and the episode ids of live bookings stay
in the histories of their links, once each (R7, R50, R53, R58, R76). -/
def Obligations.KeysStayUnique : Prop :=
  (∀ s t, KeysUnique s → step s = .next t → KeysUnique t) ∧ ∀ s t, LinksKept s → step s = .next t → LinksKept t

/-- The law of the tuners: the running bookings of a tuner whose close points have not been reached, with its FIRM hold,
carry one key and are at most three (R39, R134). -/
def Obligations.TunersStayLawful : Prop :=
  ∀ s t, TunersLawful s ∧ PolicyWf s.policy → step s = .next t → TunersLawful t ∧ PolicyWf t.policy

/-- No booking is STARTING for more elapsed seconds than the timeout of its confirm timer (R129, R130, R138). -/
def Obligations.ConfirmTimersAreKept : Prop := ∀ s t, TimersKept s → step s = .next t → TimersKept t

/-- Current placements and the results of a pass keep to the windows of their showings, and the close point of a running
booking stays the one R133 computes and ahead of the clock until it is reached (R120, R129, R130, R133). -/
def Obligations.WindowsStayFitted : Prop := ∀ s t, WindowsKept s → step s = .next t → WindowsKept t

/-- One event moves the state of a booking that stays in its slot only along the moves of R8, and keeps its origin, repeat
flag, episode id, running tuner, key and showing used, actual open and stamps (section 1.1, R8, R129). -/
def Obligations.BookingsKeepTheirIdentity : Prop :=
  ∀ i s t h b c, PresenceKept s → exec i s = .next t → bookingOf s h = some b → bookingOf t h = some c →
    staysTheSame b c
end

