-- ==== Sys2Proof/Laws/State.lean ====
section
/-! SUPPORT. What each update of the state leaves in each field: one lemma for a field and an update, so that no proof
unfolds an update. -/

namespace Sys2Proof.Machine

/-! ### setPort -/

@[simp] theorem setPort_bookings (s : State) (p : Port) : (setPort s p).bookings = s.bookings := rfl
@[simp] theorem setPort_links (s : State) (p : Port) : (setPort s p).links = s.links := rfl
@[simp] theorem setPort_queue (s : State) (p : Port) : (setPort s p).queue = s.queue := rfl
@[simp] theorem setPort_map (s : State) (p : Port) : (setPort s p).map = s.map := rfl
@[simp] theorem setPort_holds (s : State) (p : Port) : (setPort s p).holds = s.holds := rfl
@[simp] theorem setPort_planner (s : State) (p : Port) : (setPort s p).planner = s.planner := rfl
@[simp] theorem setPort_clock (s : State) (p : Port) : (setPort s p).clock = s.clock := rfl
@[simp] theorem setPort_policy (s : State) (p : Port) : (setPort s p).policy = s.policy := rfl
@[simp] theorem setPort_routings (s : State) (p : Port) : (setPort s p).routings = s.routings := rfl
@[simp] theorem setPort_port (s : State) (p : Port) : (setPort s p).port = p := rfl
@[simp] theorem setPort_hostAwake (s : State) (p : Port) : (setPort s p).hostAwake = s.hostAwake := rfl
@[simp] theorem setPort_out (s : State) (p : Port) : (setPort s p).out = s.out := rfl
@[simp] theorem setPort_pending (s : State) (p : Port) : (setPort s p).pending = s.pending := rfl

/-! ### setClock -/

@[simp] theorem setClock_bookings (s : State) (c : Clock) : (setClock s c).bookings = s.bookings := rfl
@[simp] theorem setClock_links (s : State) (c : Clock) : (setClock s c).links = s.links := rfl
@[simp] theorem setClock_queue (s : State) (c : Clock) : (setClock s c).queue = s.queue := rfl
@[simp] theorem setClock_map (s : State) (c : Clock) : (setClock s c).map = s.map := rfl
@[simp] theorem setClock_holds (s : State) (c : Clock) : (setClock s c).holds = s.holds := rfl
@[simp] theorem setClock_planner (s : State) (c : Clock) : (setClock s c).planner = s.planner := rfl
@[simp] theorem setClock_clock (s : State) (c : Clock) : (setClock s c).clock = c := rfl
@[simp] theorem setClock_policy (s : State) (c : Clock) : (setClock s c).policy = s.policy := rfl
@[simp] theorem setClock_routings (s : State) (c : Clock) : (setClock s c).routings = s.routings := rfl
@[simp] theorem setClock_port (s : State) (c : Clock) : (setClock s c).port = s.port := rfl
@[simp] theorem setClock_hostAwake (s : State) (c : Clock) : (setClock s c).hostAwake = s.hostAwake := rfl
@[simp] theorem setClock_out (s : State) (c : Clock) : (setClock s c).out = s.out := rfl
@[simp] theorem setClock_pending (s : State) (c : Clock) : (setClock s c).pending = s.pending := rfl

/-! ### setBands -/

@[simp] theorem setBands_bookings (s : State) (b : Bands) : (setBands s b).bookings = s.bookings := rfl
@[simp] theorem setBands_links (s : State) (b : Bands) : (setBands s b).links = s.links := rfl
@[simp] theorem setBands_queue (s : State) (b : Bands) : (setBands s b).queue = s.queue := rfl
@[simp] theorem setBands_map (s : State) (b : Bands) : (setBands s b).map = { s.map with bands := b } := rfl
@[simp] theorem setBands_holds (s : State) (b : Bands) : (setBands s b).holds = s.holds := rfl
@[simp] theorem setBands_planner (s : State) (b : Bands) : (setBands s b).planner = s.planner := rfl
@[simp] theorem setBands_clock (s : State) (b : Bands) : (setBands s b).clock = s.clock := rfl
@[simp] theorem setBands_policy (s : State) (b : Bands) : (setBands s b).policy = s.policy := rfl
@[simp] theorem setBands_routings (s : State) (b : Bands) : (setBands s b).routings = s.routings := rfl
@[simp] theorem setBands_port (s : State) (b : Bands) : (setBands s b).port = s.port := rfl
@[simp] theorem setBands_hostAwake (s : State) (b : Bands) : (setBands s b).hostAwake = s.hostAwake := rfl
@[simp] theorem setBands_out (s : State) (b : Bands) : (setBands s b).out = s.out := rfl
@[simp] theorem setBands_pending (s : State) (b : Bands) : (setBands s b).pending = s.pending := rfl

/-! ### markStale -/

@[simp] theorem markStale_bookings (s : State) : (markStale s).bookings = s.bookings := rfl
@[simp] theorem markStale_links (s : State) : (markStale s).links = s.links := rfl
@[simp] theorem markStale_queue (s : State) : (markStale s).queue = s.queue := rfl
@[simp] theorem markStale_map (s : State) : (markStale s).map = s.map := rfl
@[simp] theorem markStale_holds (s : State) : (markStale s).holds = s.holds := rfl
@[simp] theorem markStale_planner (s : State) : (markStale s).planner = { s.planner with stale := true } := rfl
@[simp] theorem markStale_clock (s : State) : (markStale s).clock = s.clock := rfl
@[simp] theorem markStale_policy (s : State) : (markStale s).policy = s.policy := rfl
@[simp] theorem markStale_routings (s : State) : (markStale s).routings = s.routings := rfl
@[simp] theorem markStale_port (s : State) : (markStale s).port = s.port := rfl
@[simp] theorem markStale_hostAwake (s : State) : (markStale s).hostAwake = s.hostAwake := rfl
@[simp] theorem markStale_out (s : State) : (markStale s).out = s.out := rfl
@[simp] theorem markStale_pending (s : State) : (markStale s).pending = s.pending := rfl

/-! ### putHold -/

@[simp] theorem putHold_bookings (s : State) (t : Tuner) (r : HoldRecord) : (putHold s t r).bookings = s.bookings := rfl
@[simp] theorem putHold_links (s : State) (t : Tuner) (r : HoldRecord) : (putHold s t r).links = s.links := rfl
@[simp] theorem putHold_queue (s : State) (t : Tuner) (r : HoldRecord) : (putHold s t r).queue = s.queue := rfl
@[simp] theorem putHold_map (s : State) (t : Tuner) (r : HoldRecord) : (putHold s t r).map = s.map := rfl
@[simp] theorem putHold_holds (s : State) (t : Tuner) (r : HoldRecord) : (putHold s t r).holds = s.holds.put t r := rfl
@[simp] theorem putHold_planner (s : State) (t : Tuner) (r : HoldRecord) : (putHold s t r).planner = s.planner := rfl
@[simp] theorem putHold_clock (s : State) (t : Tuner) (r : HoldRecord) : (putHold s t r).clock = s.clock := rfl
@[simp] theorem putHold_policy (s : State) (t : Tuner) (r : HoldRecord) : (putHold s t r).policy = s.policy := rfl
@[simp] theorem putHold_routings (s : State) (t : Tuner) (r : HoldRecord) : (putHold s t r).routings = s.routings := rfl
@[simp] theorem putHold_port (s : State) (t : Tuner) (r : HoldRecord) : (putHold s t r).port = s.port := rfl
@[simp] theorem putHold_hostAwake (s : State) (t : Tuner) (r : HoldRecord) :
    (putHold s t r).hostAwake = s.hostAwake := rfl
@[simp] theorem putHold_out (s : State) (t : Tuner) (r : HoldRecord) : (putHold s t r).out = s.out := rfl
@[simp] theorem putHold_pending (s : State) (t : Tuner) (r : HoldRecord) : (putHold s t r).pending = s.pending := rfl

/-! ### updateBooking -/

@[simp] theorem updateBooking_bookings (s : State) (i : Nat) (f : Booking → Booking) :
    (updateBooking s i f).bookings = s.bookings.modify i fun sl => { sl with booking := sl.booking.map f } := rfl
@[simp] theorem updateBooking_links (s : State) (i : Nat) (f : Booking → Booking) :
    (updateBooking s i f).links = s.links := rfl
@[simp] theorem updateBooking_queue (s : State) (i : Nat) (f : Booking → Booking) :
    (updateBooking s i f).queue = s.queue := rfl
@[simp] theorem updateBooking_map (s : State) (i : Nat) (f : Booking → Booking) :
    (updateBooking s i f).map = s.map := rfl
@[simp] theorem updateBooking_holds (s : State) (i : Nat) (f : Booking → Booking) :
    (updateBooking s i f).holds = s.holds := rfl
@[simp] theorem updateBooking_planner (s : State) (i : Nat) (f : Booking → Booking) :
    (updateBooking s i f).planner = s.planner := rfl
@[simp] theorem updateBooking_clock (s : State) (i : Nat) (f : Booking → Booking) :
    (updateBooking s i f).clock = s.clock := rfl
@[simp] theorem updateBooking_policy (s : State) (i : Nat) (f : Booking → Booking) :
    (updateBooking s i f).policy = s.policy := rfl
@[simp] theorem updateBooking_routings (s : State) (i : Nat) (f : Booking → Booking) :
    (updateBooking s i f).routings = s.routings := rfl
@[simp] theorem updateBooking_port (s : State) (i : Nat) (f : Booking → Booking) :
    (updateBooking s i f).port = s.port := rfl
@[simp] theorem updateBooking_hostAwake (s : State) (i : Nat) (f : Booking → Booking) :
    (updateBooking s i f).hostAwake = s.hostAwake := rfl
@[simp] theorem updateBooking_out (s : State) (i : Nat) (f : Booking → Booking) :
    (updateBooking s i f).out = s.out := rfl
@[simp] theorem updateBooking_pending (s : State) (i : Nat) (f : Booking → Booking) :
    (updateBooking s i f).pending = s.pending := rfl

/-! ### freeBooking -/

@[simp] theorem freeBooking_bookings (s : State) (i : Nat) :
    (freeBooking s i).bookings = s.bookings.modify i fun sl => { sl with booking := none } := rfl
@[simp] theorem freeBooking_links (s : State) (i : Nat) : (freeBooking s i).links = s.links := rfl
@[simp] theorem freeBooking_queue (s : State) (i : Nat) : (freeBooking s i).queue = s.queue := rfl
@[simp] theorem freeBooking_map (s : State) (i : Nat) : (freeBooking s i).map = s.map := rfl
@[simp] theorem freeBooking_holds (s : State) (i : Nat) : (freeBooking s i).holds = s.holds := rfl
@[simp] theorem freeBooking_planner (s : State) (i : Nat) : (freeBooking s i).planner = s.planner := rfl
@[simp] theorem freeBooking_clock (s : State) (i : Nat) : (freeBooking s i).clock = s.clock := rfl
@[simp] theorem freeBooking_policy (s : State) (i : Nat) : (freeBooking s i).policy = s.policy := rfl
@[simp] theorem freeBooking_routings (s : State) (i : Nat) : (freeBooking s i).routings = s.routings := rfl
@[simp] theorem freeBooking_port (s : State) (i : Nat) : (freeBooking s i).port = s.port := rfl
@[simp] theorem freeBooking_hostAwake (s : State) (i : Nat) : (freeBooking s i).hostAwake = s.hostAwake := rfl
@[simp] theorem freeBooking_out (s : State) (i : Nat) : (freeBooking s i).out = s.out := rfl
@[simp] theorem freeBooking_pending (s : State) (i : Nat) : (freeBooking s i).pending = s.pending := rfl

/-! ### occupyBooking -/

@[simp] theorem occupyBooking_bookings (s : State) (i : Nat) (b : Booking) :
    (occupyBooking s i b).bookings = s.bookings.set i ⟨nextBookingTag s i, some b⟩ := rfl
@[simp] theorem occupyBooking_links (s : State) (i : Nat) (b : Booking) : (occupyBooking s i b).links = s.links := rfl
@[simp] theorem occupyBooking_queue (s : State) (i : Nat) (b : Booking) : (occupyBooking s i b).queue = s.queue := rfl
@[simp] theorem occupyBooking_map (s : State) (i : Nat) (b : Booking) : (occupyBooking s i b).map = s.map := rfl
@[simp] theorem occupyBooking_holds (s : State) (i : Nat) (b : Booking) : (occupyBooking s i b).holds = s.holds := rfl
@[simp] theorem occupyBooking_planner (s : State) (i : Nat) (b : Booking) :
    (occupyBooking s i b).planner = s.planner := rfl
@[simp] theorem occupyBooking_clock (s : State) (i : Nat) (b : Booking) : (occupyBooking s i b).clock = s.clock := rfl
@[simp] theorem occupyBooking_policy (s : State) (i : Nat) (b : Booking) :
    (occupyBooking s i b).policy = s.policy := rfl
@[simp] theorem occupyBooking_routings (s : State) (i : Nat) (b : Booking) :
    (occupyBooking s i b).routings = s.routings := rfl
@[simp] theorem occupyBooking_port (s : State) (i : Nat) (b : Booking) : (occupyBooking s i b).port = s.port := rfl
@[simp] theorem occupyBooking_hostAwake (s : State) (i : Nat) (b : Booking) :
    (occupyBooking s i b).hostAwake = s.hostAwake := rfl
@[simp] theorem occupyBooking_out (s : State) (i : Nat) (b : Booking) : (occupyBooking s i b).out = s.out := rfl
@[simp] theorem occupyBooking_pending (s : State) (i : Nat) (b : Booking) :
    (occupyBooking s i b).pending = s.pending := rfl

/-! ### updateLink -/

@[simp] theorem updateLink_bookings (s : State) (i : Nat) (f : Link → Link) :
    (updateLink s i f).bookings = s.bookings := rfl
@[simp] theorem updateLink_links (s : State) (i : Nat) (f : Link → Link) :
    (updateLink s i f).links = s.links.modify i fun sl => { sl with link := sl.link.map f } := rfl
@[simp] theorem updateLink_queue (s : State) (i : Nat) (f : Link → Link) : (updateLink s i f).queue = s.queue := rfl
@[simp] theorem updateLink_map (s : State) (i : Nat) (f : Link → Link) : (updateLink s i f).map = s.map := rfl
@[simp] theorem updateLink_holds (s : State) (i : Nat) (f : Link → Link) : (updateLink s i f).holds = s.holds := rfl
@[simp] theorem updateLink_planner (s : State) (i : Nat) (f : Link → Link) :
    (updateLink s i f).planner = s.planner := rfl
@[simp] theorem updateLink_clock (s : State) (i : Nat) (f : Link → Link) : (updateLink s i f).clock = s.clock := rfl
@[simp] theorem updateLink_policy (s : State) (i : Nat) (f : Link → Link) : (updateLink s i f).policy = s.policy := rfl
@[simp] theorem updateLink_routings (s : State) (i : Nat) (f : Link → Link) :
    (updateLink s i f).routings = s.routings := rfl
@[simp] theorem updateLink_port (s : State) (i : Nat) (f : Link → Link) : (updateLink s i f).port = s.port := rfl
@[simp] theorem updateLink_hostAwake (s : State) (i : Nat) (f : Link → Link) :
    (updateLink s i f).hostAwake = s.hostAwake := rfl
@[simp] theorem updateLink_out (s : State) (i : Nat) (f : Link → Link) : (updateLink s i f).out = s.out := rfl
@[simp] theorem updateLink_pending (s : State) (i : Nat) (f : Link → Link) :
    (updateLink s i f).pending = s.pending := rfl

/-! ### freeLink -/

@[simp] theorem freeLink_bookings (s : State) (i : Nat) : (freeLink s i).bookings = s.bookings := rfl
@[simp] theorem freeLink_links (s : State) (i : Nat) :
    (freeLink s i).links = s.links.modify i fun sl => { sl with link := none } := rfl
@[simp] theorem freeLink_queue (s : State) (i : Nat) : (freeLink s i).queue = s.queue := rfl
@[simp] theorem freeLink_map (s : State) (i : Nat) : (freeLink s i).map = s.map := rfl
@[simp] theorem freeLink_holds (s : State) (i : Nat) : (freeLink s i).holds = s.holds := rfl
@[simp] theorem freeLink_planner (s : State) (i : Nat) : (freeLink s i).planner = s.planner := rfl
@[simp] theorem freeLink_clock (s : State) (i : Nat) : (freeLink s i).clock = s.clock := rfl
@[simp] theorem freeLink_policy (s : State) (i : Nat) : (freeLink s i).policy = s.policy := rfl
@[simp] theorem freeLink_routings (s : State) (i : Nat) : (freeLink s i).routings = s.routings := rfl
@[simp] theorem freeLink_port (s : State) (i : Nat) : (freeLink s i).port = s.port := rfl
@[simp] theorem freeLink_hostAwake (s : State) (i : Nat) : (freeLink s i).hostAwake = s.hostAwake := rfl
@[simp] theorem freeLink_out (s : State) (i : Nat) : (freeLink s i).out = s.out := rfl
@[simp] theorem freeLink_pending (s : State) (i : Nat) : (freeLink s i).pending = s.pending := rfl

/-! ### occupyLink -/

@[simp] theorem occupyLink_bookings (s : State) (i : Nat) (l : Link) : (occupyLink s i l).bookings = s.bookings := rfl
@[simp] theorem occupyLink_links (s : State) (i : Nat) (l : Link) :
    (occupyLink s i l).links = s.links.set i ⟨tagAfter (linkTagAt s i), some l⟩ := rfl
@[simp] theorem occupyLink_queue (s : State) (i : Nat) (l : Link) : (occupyLink s i l).queue = s.queue := rfl
@[simp] theorem occupyLink_map (s : State) (i : Nat) (l : Link) : (occupyLink s i l).map = s.map := rfl
@[simp] theorem occupyLink_holds (s : State) (i : Nat) (l : Link) : (occupyLink s i l).holds = s.holds := rfl
@[simp] theorem occupyLink_planner (s : State) (i : Nat) (l : Link) : (occupyLink s i l).planner = s.planner := rfl
@[simp] theorem occupyLink_clock (s : State) (i : Nat) (l : Link) : (occupyLink s i l).clock = s.clock := rfl
@[simp] theorem occupyLink_policy (s : State) (i : Nat) (l : Link) : (occupyLink s i l).policy = s.policy := rfl
@[simp] theorem occupyLink_routings (s : State) (i : Nat) (l : Link) : (occupyLink s i l).routings = s.routings := rfl
@[simp] theorem occupyLink_port (s : State) (i : Nat) (l : Link) : (occupyLink s i l).port = s.port := rfl
@[simp] theorem occupyLink_hostAwake (s : State) (i : Nat) (l : Link) :
    (occupyLink s i l).hostAwake = s.hostAwake := rfl
@[simp] theorem occupyLink_out (s : State) (i : Nat) (l : Link) : (occupyLink s i l).out = s.out := rfl
@[simp] theorem occupyLink_pending (s : State) (i : Nat) (l : Link) : (occupyLink s i l).pending = s.pending := rfl

/-! ### settle -/

@[simp] theorem settle_bookings (s : State) : (settle s).bookings = s.bookings := rfl
@[simp] theorem settle_links (s : State) : (settle s).links = s.links := rfl
@[simp] theorem settle_queue (s : State) : (settle s).queue = s.queue := rfl
@[simp] theorem settle_map (s : State) : (settle s).map = s.map := rfl
@[simp] theorem settle_holds (s : State) : (settle s).holds = s.holds := rfl
@[simp] theorem settle_planner (s : State) : (settle s).planner = s.planner := rfl
@[simp] theorem settle_clock (s : State) : (settle s).clock = s.clock := rfl
@[simp] theorem settle_policy (s : State) : (settle s).policy = s.policy := rfl
@[simp] theorem settle_routings (s : State) : (settle s).routings = s.routings := rfl
@[simp] theorem settle_port (s : State) : (settle s).port = s.port := rfl
@[simp] theorem settle_hostAwake (s : State) : (settle s).hostAwake = s.hostAwake := rfl
@[simp] theorem settle_out (s : State) : (settle s).out = deriveOutputs s := rfl
@[simp] theorem settle_pending (s : State) : (settle s).pending = s.pending := rfl

/-! ### completeRequest -/

@[simp] theorem completeRequest_bookings (s : State) (q : InProcess) (a : Answer) :
    (completeRequest s q a).bookings = s.bookings := rfl
@[simp] theorem completeRequest_links (s : State) (q : InProcess) (a : Answer) :
    (completeRequest s q a).links = s.links := rfl
@[simp] theorem completeRequest_queue (s : State) (q : InProcess) (a : Answer) :
    (completeRequest s q a).queue = s.queue := rfl
@[simp] theorem completeRequest_map (s : State) (q : InProcess) (a : Answer) :
    (completeRequest s q a).map = s.map := rfl
@[simp] theorem completeRequest_holds (s : State) (q : InProcess) (a : Answer) :
    (completeRequest s q a).holds = s.holds := rfl
@[simp] theorem completeRequest_planner (s : State) (q : InProcess) (a : Answer) :
    (completeRequest s q a).planner = s.planner := rfl
@[simp] theorem completeRequest_clock (s : State) (q : InProcess) (a : Answer) :
    (completeRequest s q a).clock = s.clock := rfl
@[simp] theorem completeRequest_policy (s : State) (q : InProcess) (a : Answer) :
    (completeRequest s q a).policy = s.policy := rfl
@[simp] theorem completeRequest_routings (s : State) (q : InProcess) (a : Answer) :
    (completeRequest s q a).routings = s.routings := rfl
@[simp] theorem completeRequest_hostAwake (s : State) (q : InProcess) (a : Answer) :
    (completeRequest s q a).hostAwake = s.hostAwake := rfl
@[simp] theorem completeRequest_out (s : State) (q : InProcess) (a : Answer) :
    (completeRequest s q a).out = s.out := rfl
@[simp] theorem completeRequest_pending (s : State) (q : InProcess) (a : Answer) :
    (completeRequest s q a).pending = s.pending := rfl

/-! ### reachClosePoints -/

@[simp] theorem reachClosePoints_bookings (s : State) :
    (reachClosePoints s).bookings =
      s.bookings.map fun sl => { sl with booking := sl.booking.map (reachClosePoint s) } := rfl
@[simp] theorem reachClosePoints_links (s : State) : (reachClosePoints s).links = s.links := rfl
@[simp] theorem reachClosePoints_queue (s : State) : (reachClosePoints s).queue = s.queue := rfl
@[simp] theorem reachClosePoints_map (s : State) : (reachClosePoints s).map = s.map := rfl
@[simp] theorem reachClosePoints_holds (s : State) : (reachClosePoints s).holds = s.holds := rfl
@[simp] theorem reachClosePoints_planner (s : State) : (reachClosePoints s).planner = s.planner := rfl
@[simp] theorem reachClosePoints_clock (s : State) : (reachClosePoints s).clock = s.clock := rfl
@[simp] theorem reachClosePoints_policy (s : State) : (reachClosePoints s).policy = s.policy := rfl
@[simp] theorem reachClosePoints_routings (s : State) : (reachClosePoints s).routings = s.routings := rfl
@[simp] theorem reachClosePoints_port (s : State) : (reachClosePoints s).port = s.port := rfl
@[simp] theorem reachClosePoints_hostAwake (s : State) : (reachClosePoints s).hostAwake = s.hostAwake := rfl
@[simp] theorem reachClosePoints_out (s : State) : (reachClosePoints s).out = s.out := rfl
@[simp] theorem reachClosePoints_pending (s : State) : (reachClosePoints s).pending = s.pending := rfl

/-! ### markStaleIf and dropHold -/

@[simp] theorem markStaleIf_bookings (c : Bool) (s : State) : (markStaleIf c s).bookings = s.bookings := by
  cases c <;> rfl
@[simp] theorem markStaleIf_links (c : Bool) (s : State) : (markStaleIf c s).links = s.links := by
  cases c <;> rfl
@[simp] theorem markStaleIf_queue (c : Bool) (s : State) : (markStaleIf c s).queue = s.queue := by
  cases c <;> rfl
@[simp] theorem markStaleIf_map (c : Bool) (s : State) : (markStaleIf c s).map = s.map := by
  cases c <;> rfl
@[simp] theorem markStaleIf_holds (c : Bool) (s : State) : (markStaleIf c s).holds = s.holds := by
  cases c <;> rfl
@[simp] theorem markStaleIf_planner (c : Bool) (s : State) :
    (markStaleIf c s).planner = { s.planner with stale := s.planner.stale || c } := by
  cases c <;> simp [markStaleIf]
@[simp] theorem markStaleIf_clock (c : Bool) (s : State) : (markStaleIf c s).clock = s.clock := by
  cases c <;> rfl
@[simp] theorem markStaleIf_policy (c : Bool) (s : State) : (markStaleIf c s).policy = s.policy := by
  cases c <;> rfl
@[simp] theorem markStaleIf_routings (c : Bool) (s : State) : (markStaleIf c s).routings = s.routings := by
  cases c <;> rfl
@[simp] theorem markStaleIf_port (c : Bool) (s : State) : (markStaleIf c s).port = s.port := by
  cases c <;> rfl
@[simp] theorem markStaleIf_hostAwake (c : Bool) (s : State) : (markStaleIf c s).hostAwake = s.hostAwake := by
  cases c <;> rfl
@[simp] theorem markStaleIf_out (c : Bool) (s : State) : (markStaleIf c s).out = s.out := by
  cases c <;> rfl
@[simp] theorem markStaleIf_pending (c : Bool) (s : State) : (markStaleIf c s).pending = s.pending := by
  cases c <;> rfl
@[simp] theorem dropHold_bookings (s : State) (t : Tuner) (r : DropReason) : (dropHold s t r).bookings = s.bookings := by
  unfold dropHold; split <;> rfl
@[simp] theorem dropHold_links (s : State) (t : Tuner) (r : DropReason) : (dropHold s t r).links = s.links := by
  unfold dropHold; split <;> rfl
@[simp] theorem dropHold_queue (s : State) (t : Tuner) (r : DropReason) : (dropHold s t r).queue = s.queue := by
  unfold dropHold; split <;> rfl
@[simp] theorem dropHold_map (s : State) (t : Tuner) (r : DropReason) : (dropHold s t r).map = s.map := by
  unfold dropHold; split <;> rfl
@[simp] theorem dropHold_planner (s : State) (t : Tuner) (r : DropReason) : (dropHold s t r).planner = s.planner := by
  unfold dropHold; split <;> rfl
@[simp] theorem dropHold_clock (s : State) (t : Tuner) (r : DropReason) : (dropHold s t r).clock = s.clock := by
  unfold dropHold; split <;> rfl
@[simp] theorem dropHold_policy (s : State) (t : Tuner) (r : DropReason) : (dropHold s t r).policy = s.policy := by
  unfold dropHold; split <;> rfl
@[simp] theorem dropHold_routings (s : State) (t : Tuner) (r : DropReason) : (dropHold s t r).routings = s.routings := by
  unfold dropHold; split <;> rfl
@[simp] theorem dropHold_port (s : State) (t : Tuner) (r : DropReason) : (dropHold s t r).port = s.port := by
  unfold dropHold; split <;> rfl
@[simp] theorem dropHold_hostAwake (s : State) (t : Tuner) (r : DropReason) : (dropHold s t r).hostAwake = s.hostAwake := by
  unfold dropHold; split <;> rfl
@[simp] theorem dropHold_out (s : State) (t : Tuner) (r : DropReason) : (dropHold s t r).out = s.out := by
  unfold dropHold; split <;> rfl
@[simp] theorem dropHold_pending (s : State) (t : Tuner) (r : DropReason) : (dropHold s t r).pending = s.pending := by
  unfold dropHold; split <;> rfl

/-- SS is high after its rise. -/
@[simp] theorem raiseSelect_phase (p : Port) (n : Nat) : (raiseSelect p n).phase = .idle := rfl

/-- The rise of SS records what the pin carried. -/
@[simp] theorem raiseSelect_miso (p : Port) (n : Nat) : (raiseSelect p n).miso = recordMiso (misoPin p.phase) n := rfl

/-- The rise of SS leaves the pending reply. -/
@[simp] theorem raiseSelect_pendingReply (p : Port) (n : Nat) : (raiseSelect p n).pendingReply = p.pendingReply := rfl

/-- The rise of SS leaves the request in process. -/
@[simp] theorem raiseSelect_inProcess (p : Port) (n : Nat) : (raiseSelect p n).inProcess = p.inProcess := rfl

/-- The rise of SS leaves REPLY_LOST. -/
@[simp] theorem raiseSelect_replyLost (p : Port) (n : Nat) : (raiseSelect p n).replyLost = p.replyLost := rfl

/-- The rise of SS leaves REJECTED. -/
@[simp] theorem raiseSelect_rejected (p : Port) (n : Nat) : (raiseSelect p n).rejected = p.rejected := rfl

end Sys2Proof.Machine
end

