-- ==== Sys2Proof/Laws/Slots.lean ====
section
/-! SUPPORT. Slots and handles: who is in the list of bookings, and what each change of a slot leaves of every slot. -/

namespace Sys2Proof.Machine

/-! ### Lists with their places -/

theorem mem_places {α β : Type} (xs : List α) (f : α → Nat → Option β) (e : β) :
    e ∈ (xs.zipIdx.filterMap fun (x, i) => f x i) ↔ ∃ i x, xs[i]? = some x ∧ f x i = some e := by
  simp only [List.mem_filterMap, Prod.exists, List.mem_zipIdx_iff_getElem?]
  constructor
  · rintro ⟨x, i, h, h'⟩; exact ⟨i, x, h, h'⟩
  · rintro ⟨i, x, h, h'⟩; exact ⟨x, i, h, h'⟩

/-- A booking with its handle is listed exactly when its slot holds it under the handle's tag. -/
theorem mem_occupied (s : State) (h : Handle) (b : Booking) :
    (h, b) ∈ occupied s ↔ s.bookings[h.slot]? = some ⟨h.tag, some b⟩ := by
  unfold occupied
  rw [mem_places s.bookings (fun sl i => sl.booking.map fun b => ((⟨i, sl.lastTag⟩ : Handle), b))]
  constructor
  · rintro ⟨i, ⟨tag, bk⟩, hs, he⟩
    cases bk with
    | none => simp at he
    | some c =>
      simp only [Option.map_some, Option.some.injEq, Prod.mk.injEq] at he
      obtain ⟨rfl, rfl⟩ := he
      exact hs
  · intro hs
    exact ⟨h.slot, _, hs, rfl⟩

theorem mem_occupiedLinks (s : State) (h : Handle) (l : Link) :
    (h, l) ∈ occupiedLinks s ↔ s.links[h.slot]? = some ⟨h.tag, some l⟩ := by
  unfold occupiedLinks
  rw [mem_places s.links (fun sl i => sl.link.map fun l => ((⟨i, sl.lastTag⟩ : Handle), l))]
  constructor
  · rintro ⟨i, ⟨tag, lk⟩, hs, he⟩
    cases lk with
    | none => simp at he
    | some c =>
      simp only [Option.map_some, Option.some.injEq, Prod.mk.injEq] at he
      obtain ⟨rfl, rfl⟩ := he
      exact hs
  · intro hs
    exact ⟨h.slot, _, hs, rfl⟩

/-! ### Slots and handles -/

theorem bookingAt_eq_some (s : State) (i : Nat) (b : Booking) :
    bookingAt s i = some b ↔ s.bookings[i]? = some ⟨tagAt s i, some b⟩ := by
  unfold bookingAt tagAt
  cases h : s.bookings[i]? with
  | none => simp
  | some sl => cases sl; simp

theorem bookingAt_eq_none (s : State) (i : Nat) :
    bookingAt s i = none ↔ ∀ sl, s.bookings[i]? = some sl → sl.booking = none := by
  unfold bookingAt
  cases h : s.bookings[i]? with
  | none => simp
  | some sl => simp

/-- A handle names a booking exactly when its slot holds it under its tag. -/
theorem bookingOf_eq_some (s : State) (h : Handle) (b : Booking) :
    bookingOf s h = some b ↔ s.bookings[h.slot]? = some ⟨h.tag, some b⟩ := by
  unfold bookingOf
  split
  · next ht => rw [bookingAt_eq_some, ht]
  · next ht =>
    constructor
    · intro h'; cases h'
    · intro h'
      exact absurd (by simp [tagAt, h'] : tagAt s h.slot = h.tag) ht

theorem bookingOf_iff_occupied (s : State) (h : Handle) (b : Booking) :
    bookingOf s h = some b ↔ (h, b) ∈ occupied s := by rw [bookingOf_eq_some, mem_occupied]

theorem linkAt_eq_some (s : State) (i : Nat) (l : Link) :
    linkAt s i = some l ↔ s.links[i]? = some ⟨linkTagAt s i, some l⟩ := by
  unfold linkAt linkTagAt
  cases h : s.links[i]? with
  | none => simp
  | some sl => cases sl; simp

/-- A handle names a link exactly when its slot holds it under its tag. -/
theorem linkOf_eq_some (s : State) (h : Handle) (l : Link) :
    linkOf s h = some l ↔ s.links[h.slot]? = some ⟨h.tag, some l⟩ := by
  unfold linkOf
  split
  · next ht => rw [linkAt_eq_some, ht]
  · next ht =>
    constructor
    · intro h'; cases h'
    · intro h'
      exact absurd (by simp [linkTagAt, h'] : linkTagAt s h.slot = h.tag) ht

theorem linkOf_iff_occupied (s : State) (h : Handle) (l : Link) :
    linkOf s h = some l ↔ (h, l) ∈ occupiedLinks s := by rw [linkOf_eq_some, mem_occupiedLinks]

/-! ### The slots after a change -/

theorem updateBooking_slot (s : State) (i j : Nat) (f : Booking → Booking) :
    (updateBooking s i f).bookings[j]? =
      if i = j then (s.bookings[j]?).map fun sl => { sl with booking := sl.booking.map f } else s.bookings[j]? := by
  simp [List.getElem?_modify]
  split <;> simp

theorem freeBooking_slot (s : State) (i j : Nat) :
    (freeBooking s i).bookings[j]? =
      if i = j then (s.bookings[j]?).map fun sl => { sl with booking := none } else s.bookings[j]? := by
  simp [List.getElem?_modify]
  split <;> simp

theorem occupyBooking_slot (s : State) (i j : Nat) (b : Booking) :
    (occupyBooking s i b).bookings[j]? =
      if i = j then (s.bookings[j]?).map fun _ => ⟨nextBookingTag s i, some b⟩ else s.bookings[j]? := by
  simp [List.getElem?_set]
  split
  · next h =>
    subst h
    split <;> simp_all
  · rfl

theorem updateLink_slot (s : State) (i j : Nat) (f : Link → Link) :
    (updateLink s i f).links[j]? =
      if i = j then (s.links[j]?).map fun sl => { sl with link := sl.link.map f } else s.links[j]? := by
  simp [List.getElem?_modify]
  split <;> simp

theorem freeLink_slot (s : State) (i j : Nat) :
    (freeLink s i).links[j]? =
      if i = j then (s.links[j]?).map fun sl => { sl with link := none } else s.links[j]? := by
  simp [List.getElem?_modify]
  split <;> simp

theorem occupyLink_slot (s : State) (i j : Nat) (l : Link) :
    (occupyLink s i l).links[j]? =
      if i = j then (s.links[j]?).map fun _ => ⟨tagAfter (linkTagAt s i), some l⟩ else s.links[j]? := by
  simp [List.getElem?_set]
  split
  · next h =>
    subst h
    split <;> simp_all
  · rfl

/-- Handles of one slot in the list of bookings are one. -/
theorem occupied_slot_unique {s : State} {g h : Handle} {b c : Booking} (hb : (g, b) ∈ occupied s)
    (hc : (h, c) ∈ occupied s) (hs : g.slot = h.slot) : g = h ∧ b = c := by
  rw [mem_occupied] at hb hc
  rw [hs, hc] at hb
  cases g; cases h
  simp_all

/-- The lowest free slot is free, and every slot below it is taken. -/
theorem lowestFreeBooking_eq_some (s : State) (i : Nat) :
    lowestFreeBooking s = some i ↔
      i < s.bookings.length ∧ bookingAt s i = none ∧ ∀ j, j < i → (bookingAt s j).isSome = true := by
  unfold lowestFreeBooking
  rw [List.findIdx?_eq_some_iff_getElem]
  constructor
  · rintro ⟨hi, hn, hj⟩
    refine ⟨hi, ?_, fun j hji => ?_⟩
    · simpa [bookingAt, List.getElem?_eq_getElem hi] using hn
    · have := hj j hji
      simp only [bookingAt, List.getElem?_eq_getElem (Nat.lt_trans hji hi)]
      simpa [Option.isSome_iff_ne_none] using this
  · rintro ⟨hi, hn, hj⟩
    refine ⟨hi, ?_, fun j hji => ?_⟩
    · simpa [bookingAt, List.getElem?_eq_getElem hi] using hn
    · have := hj j hji
      simp only [bookingAt, List.getElem?_eq_getElem (Nat.lt_trans hji hi)] at this
      simpa [Option.isSome_iff_ne_none] using this

theorem lowestFreeBooking_eq_none (s : State) :
    lowestFreeBooking s = none ↔ ∀ sl ∈ s.bookings, sl.booking.isSome = true := by
  simp [lowestFreeBooking, List.findIdx?_eq_none_iff, Option.isSome_iff_ne_none]

theorem lowestFreeLink_eq_some (s : State) (i : Nat) :
    lowestFreeLink s = some i ↔
      i < s.links.length ∧ linkAt s i = none ∧ ∀ j, j < i → (linkAt s j).isSome = true := by
  unfold lowestFreeLink
  rw [List.findIdx?_eq_some_iff_getElem]
  constructor
  · rintro ⟨hi, hn, hj⟩
    refine ⟨hi, ?_, fun j hji => ?_⟩
    · simpa [linkAt, List.getElem?_eq_getElem hi] using hn
    · have := hj j hji
      simp only [linkAt, List.getElem?_eq_getElem (Nat.lt_trans hji hi)]
      simpa [Option.isSome_iff_ne_none] using this
  · rintro ⟨hi, hn, hj⟩
    refine ⟨hi, ?_, fun j hji => ?_⟩
    · simpa [linkAt, List.getElem?_eq_getElem hi] using hn
    · have := hj j hji
      simp only [linkAt, List.getElem?_eq_getElem (Nat.lt_trans hji hi)] at this
      simpa [Option.isSome_iff_ne_none] using this

end Sys2Proof.Machine
end

