-- ==== Sys2Proof/Laws/Requests.lean ====
section
/-! SUPPORT. The completion event of a request: what it leaves at the port, and that the rest of the state is the owner's.
The levels depend on neither the port nor the queue of commands. -/

namespace Sys2Proof.Machine

@[simp] theorem deriveOutputs_completeRequest (s : State) (q : InProcess) (a : Answer) :
    deriveOutputs (completeRequest s q a) = deriveOutputs s := rfl

@[simp] theorem deriveOutputs_settle (s : State) : deriveOutputs (settle s) = deriveOutputs s := rfl

@[simp] theorem deriveOutputs_setPort (s : State) (p : Port) : deriveOutputs (setPort s p) = deriveOutputs s := rfl

theorem settle_settled (s : State) : OutputsSettled (settle s) := rfl

theorem completeRequest_settled {s : State} (q : InProcess) (a : Answer) (h : OutputsSettled s) :
    OutputsSettled (completeRequest s q a) := h

/-- A completion event answers the owner's state with the port's part done. -/
theorem onRequest_taking {s s' : State} {r : Request} {d : Bool} {a : Answer}
    {take : Request → Option (State × Answer)} (h : Taking s r d) (ht : take r = some (s', a)) :
    onRequest s take = .next (completeRequest s' ⟨r, d⟩ a) := by
  unfold Taking at h
  simp [onRequest, h, ht]

/-- With no request of the kind in process nothing is taken. -/
theorem onRequest_idle {s : State} {take : Request → Option (State × Answer)}
    (h : ∀ q, s.port.inProcess = some q → take q.request = none) : onRequest s take = .next s := by
  unfold onRequest
  cases hq : s.port.inProcess with
  | none => rfl
  | some q => simp [h q hq]

/-- A completion event answers either the state as it stands or the owner's state with the port's part done. -/
theorem onRequest_cases {s t : State} {take : Request → Option (State × Answer)} (h : onRequest s take = .next t) :
    t = s ∨ ∃ q s' a, s.port.inProcess = some q ∧ take q.request = some (s', a) ∧ t = completeRequest s' q a := by
  unfold onRequest at h
  split at h
  · left; injection h with h; exact h.symm
  · next q hq =>
    split at h
    · left; injection h with h; exact h.symm
    · next s' a ht => right; exact ⟨q, s', a, hq, ht, by injection h with h; exact h.symm⟩

/-- The port after a completion event whose owner left the port alone. -/
theorem completeRequest_replied {s s' : State} (r : Request) (d : Bool) (a : Answer) (h : s'.port = s.port) :
    Replied s (completeRequest s' ⟨r, d⟩ a) (kindOf r) d a.code a.results := by
  unfold Replied completeRequest
  cases d
  · simp only [h, pendReply, phaseOnReply, Bool.false_eq_true, if_false]
    cases s.port.phase <;> simp
  · simp only [h, phaseOnReply]
    cases s.port.phase <;> simp

/-- The state and port that a completion event leaves, from the owner's state and answer. -/
def completed (r : Request) (d : Bool) (x : State × Answer) : Host.Outcome State Fault Refusal :=
  .next (completeRequest x.1 ⟨r, d⟩ x.2)

/-! ### Each request's completion event -/

theorem exec_addBooking {s d} {f} (ht : Taking s (.addBooking f) d) :
    exec .addBooking s = completed (.addBooking f) d (takeAddBooking s f) := by
  unfold exec execAddBooking; exact onRequest_taking ht rfl

theorem exec_amendBooking {s d} {h f} (ht : Taking s (.amendBooking h f) d) :
    exec .amendBooking s = completed (.amendBooking h f) d (takeAmendBooking s h f) := by
  unfold exec execAmendBooking; exact onRequest_taking ht rfl

theorem exec_withdraw {s d} {h} (ht : Taking s (.withdraw h) d) :
    exec .withdraw s = completed (.withdraw h) d (takeWithdraw s h) := by
  unfold exec execWithdraw; exact onRequest_taking ht rfl

theorem exec_readBooking {s d} {h} (ht : Taking s (.readBooking h) d) :
    exec .readBooking s = completed (.readBooking h) d (takeReadBooking s h) := by
  unfold exec execReadBooking; exact onRequest_taking ht rfl

theorem exec_list {s d} {f} (ht : Taking s (.list f) d) :
    exec .list s = completed (.list f) d (takeList s f) := by
  unfold exec execList; exact onRequest_taking ht rfl

theorem exec_find {s d} {c e} (ht : Taking s (.find c e) d) :
    exec .find s = completed (.find c e) d (takeFind s c e) := by
  unfold exec execFind; exact onRequest_taking ht rfl

theorem exec_setChannel {s d} {c m b} (ht : Taking s (.setChannel c m b) d) :
    exec .setChannel s = completed (.setChannel c m b) d (takeSetChannel s c m b) := by
  unfold exec execSetChannel; exact onRequest_taking ht rfl

theorem exec_removeChannel {s d} {c} (ht : Taking s (.removeChannel c) d) :
    exec .removeChannel s = completed (.removeChannel c) d (takeRemoveChannel s c) := by
  unfold exec execRemoveChannel; exact onRequest_taking ht rfl

theorem exec_readChannel {s d} {c} (ht : Taking s (.readChannel c) d) :
    exec .readChannel s = completed (.readChannel c) d (takeReadChannel s c) := by
  unfold exec execReadChannel; exact onRequest_taking ht rfl

theorem exec_setBand {s d} {b e} (ht : Taking s (.setBand b e) d) :
    exec .setBand s = completed (.setBand b e) d (takeSetBand s b e) := by
  unfold exec execSetBand; exact onRequest_taking ht rfl

theorem exec_hold {s d} {t c k} (ht : Taking s (.hold t c k) d) :
    exec .hold s = completed (.hold t c k) d (takeHold s t c k) := by
  unfold exec execHold; exact onRequest_taking ht rfl

theorem exec_release {s d} {t} (ht : Taking s (.release t) d) :
    exec .release s = completed (.release t) d (takeRelease s t) := by
  unfold exec execRelease; exact onRequest_taking ht rfl

theorem exec_readHolds {s d} (ht : Taking s .readHolds d) :
    exec .readHolds s = completed .readHolds d (accept s false (holdRecordBytes s.holds.on0 ++ holdRecordBytes s.holds.on1)) := by
  unfold exec execReadHolds; exact onRequest_taking ht rfl

theorem exec_addLink {s d} {i st f} (ht : Taking s (.addLink i st f) d) :
    exec .addLink s = completed (.addLink i st f) d (takeAddLink s i st f) := by
  unfold exec execAddLink; exact onRequest_taking ht rfl

theorem exec_amendLink {s d} {h f} (ht : Taking s (.amendLink h f) d) :
    exec .amendLink s = completed (.amendLink h f) d (takeAmendLink s h f) := by
  unfold exec execAmendLink; exact onRequest_taking ht rfl

theorem exec_setLinkStatus {s d} {h st} (ht : Taking s (.setLinkStatus h st) d) :
    exec .setLinkStatus s = completed (.setLinkStatus h st) d (takeSetLinkStatus s h st) := by
  unfold exec execSetLinkStatus; exact onRequest_taking ht rfl

theorem exec_readLink {s d} {h} (ht : Taking s (.readLink h) d) :
    exec .readLink s = completed (.readLink h) d (takeReadLink s h) := by
  unfold exec execReadLink; exact onRequest_taking ht rfl

theorem exec_listLinks {s d} {st n i} (ht : Taking s (.listLinks st n i) d) :
    exec .listLinks s = completed (.listLinks st n i) d (takeListLinks s st n i) := by
  unfold exec execListLinks; exact onRequest_taking ht rfl

theorem exec_announce {s d} {f} (ht : Taking s (.announce f) d) :
    exec .announce s = completed (.announce f) d (takeAnnounce s f) := by
  unfold exec execAnnounce; exact onRequest_taking ht rfl

theorem exec_planNow {s d} (ht : Taking s .planNow d) :
    exec .planNow s = completed .planNow d (takePlanNow s) := by
  unfold exec execPlanNow; exact onRequest_taking ht rfl

theorem exec_readPlanner {s d} (ht : Taking s .readPlanner d) :
    exec .readPlanner s = completed .readPlanner d (accept s false (plannerBytes s)) := by
  unfold exec execReadPlanner; exact onRequest_taking ht rfl

theorem exec_readPlan {s d} {t i} (ht : Taking s (.readPlan t i) d) :
    exec .readPlan s = completed (.readPlan t i) d (takeReadPlan s t i) := by
  unfold exec execReadPlan; exact onRequest_taking ht rfl

theorem exec_confirm {s d} {h} (ht : Taking s (.confirm h) d) :
    exec .confirm s = completed (.confirm h) d (takeConfirm s h) := by
  unfold exec execConfirm; exact onRequest_taking ht rfl

theorem exec_decline {s d} {h} (ht : Taking s (.decline h) d) :
    exec .decline s = completed (.decline h) d (takeDecline s h) := by
  unfold exec execDecline; exact onRequest_taking ht rfl

theorem exec_stop {s d} {h} (ht : Taking s (.stop h) d) :
    exec .stop s = completed (.stop h) d (takeStop s h) := by
  unfold exec execStop; exact onRequest_taking ht rfl

theorem exec_setTime {s d} {i j k} (ht : Taking s (.setTime i j k) d) :
    exec .setTime s = completed (.setTime i j k) d (takeSetTime s i j k) := by
  unfold exec execSetTime; exact onRequest_taking ht rfl

theorem exec_setTrim {s d} {z} (ht : Taking s (.setTrim z) d) :
    exec .setTrim s = completed (.setTrim z) d (takeSetTrim s z) := by
  unfold exec execSetTrim; exact onRequest_taking ht rfl

theorem exec_readClock {s d} (ht : Taking s .readClock d) :
    exec .readClock s = completed .readClock d (takeReadClock s) := by
  unfold exec execReadClock; exact onRequest_taking ht rfl

theorem exec_setPolicy {s d} {f} (ht : Taking s (.setPolicy f) d) :
    exec .setPolicy s = completed (.setPolicy f) d (takeSetPolicy s f) := by
  unfold exec execSetPolicy; exact onRequest_taking ht rfl

theorem exec_readPolicy {s d} (ht : Taking s .readPolicy d) :
    exec .readPolicy s = completed .readPolicy d (accept s false (policyBytes s.policy)) := by
  unfold exec execReadPolicy; exact onRequest_taking ht rfl

theorem exec_readCauses {s d} (ht : Taking s .readCauses d) :
    exec .readCauses s = completed .readCauses d (accept s false (causesBytes s)) := by
  unfold exec execReadCauses; exact onRequest_taking ht rfl

theorem exec_setRouting {s d} {r} (ht : Taking s (.setRouting r) d) :
    exec .setRouting s = completed (.setRouting r) d (takeSetRouting s r) := by
  unfold exec execSetRouting; exact onRequest_taking ht rfl

theorem exec_ackClash {s d} {h} (ht : Taking s (.ackClash h) d) :
    exec .ackClash s = completed (.ackClash h) d (takeAckClash s h) := by
  unfold exec execAckClash; exact onRequest_taking ht rfl

theorem exec_clearAll {s d} (ht : Taking s .clearAll d) :
    exec .clearAll s = completed .clearAll d (accept (clearAll s) false []) := by
  unfold exec execClearAll; exact onRequest_taking ht rfl

theorem exec_removeLinkKeep {s d h n} (ht : Taking s (.removeLink h n) d) (hn : n ≠ 1) :
    exec .removeLinkKeep s = completed (.removeLink h n) d (takeRemoveLink s h n) := by
  unfold exec execRemoveLinkKeep; exact onRequest_taking ht (by simp [hn])

theorem exec_removeLinkWithdraw {s d h n} (ht : Taking s (.removeLink h n) d) (hn : n ≠ 0) :
    exec .removeLinkWithdraw s = completed (.removeLink h n) d (takeRemoveLink s h n) := by
  unfold exec execRemoveLinkWithdraw; exact onRequest_taking ht (by simp [hn])

end Sys2Proof.Machine
end

