-- ==== Sys2Proof/Laws/Records.lean ====
section
/-! SUPPORT. What the shared operations on one record leave: the slot of a handle, a change of one slot, finishing, and
the list of bookings. -/

namespace Sys2Proof.Machine

/-- A refused request changes nothing but the port. -/
theorem refused_next (s : State) (r d c) :
    ∃ t, completed r d (refuse s c) = .next t ∧ t = { s with port := t.port } ∧
    Replied s t (kindOf r) d c [] := ⟨_, rfl, rfl, completeRequest_replied r d _ rfl⟩

/-- A request that reads changes nothing but the port. -/
theorem read_next (s : State) (r d b bs) :
    ∃ t, completed r d (accept s b bs) = .next t ∧ t = { s with port := t.port } ∧
    Replied s t (kindOf r) d (if b then .adjusted else .ok) bs := ⟨_, rfl, rfl, completeRequest_replied r d _ rfl⟩

/-- A handle that names a booking passes the check of R3. -/
theorem namesBooking_check {s h b} (hn : NamesBooking s h b) : checkBooking s h = .ok b := by
  obtain ⟨h1, h2, h3⟩ := hn
  simp [checkBooking, Nat.not_lt.mpr h1, h2, h3]

/-- The slot of a handle that names a booking. -/
theorem namesBooking_slot {s h b} (hn : NamesBooking s h b) : s.bookings[h.slot]? = some ⟨h.tag, some b⟩ :=
  (bookingOf_eq_some s h b).mp hn.2.2

/-- A handle that names a booking carries the tag of its slot. -/
theorem namesBooking_tag {s h b} (hn : NamesBooking s h b) : tagAt s h.slot = h.tag := by
  simp [tagAt, (namesBooking_slot hn)]

theorem tagAt_of_slot {s : State} {i tag : Nat} {x} (h : s.bookings[i]? = some ⟨tag, x⟩) : tagAt s i = tag := by
  simp [tagAt, h]

/-- The check of R3 refuses what `handleRefusal` says it refuses. -/
theorem check_refused {s h c} (hr : handleRefusal s h = some c) : checkBooking s h = .error c := by
  unfold handleRefusal at hr
  unfold checkBooking
  split at hr
  · next h1 => simp [h1]; simpa using hr
  · next h1 =>
    simp only [h1, if_false]
    split at hr
    · next h2 => simp [h2]; simpa using hr
    · cases hr

/-- A change of one slot leaves the others. -/
theorem updateBooking_agree (s : State) (i f) : SlotsAgreeBut i s (updateBooking s i f) := by
  intro j hj; rw [updateBooking_slot, if_neg (Ne.symm hj)]

/-- Agreement of slots is agreement of the tables. -/
theorem slotsAgreeBut_of_eq {i} {s t t' : State} (h : SlotsAgreeBut i s t) (he : t'.bookings = t.bookings) :
    SlotsAgreeBut i s t' := fun j hj => by rw [he]; exact h j hj

/-- A change of an occupied slot leaves the changed record under the same tag. -/
theorem updateBooking_record {s : State} {i b} (f) (h : bookingAt s i = some b) :
    HoldsBooking s (updateBooking s i f) i (f b) := by
  unfold HoldsBooking
  rw [updateBooking_slot, if_pos rfl, (bookingAt_eq_some s i b).mp h]; rfl

/-- The booking of a handle stands in its slot. -/
theorem namesBooking_at {s h b} (hn : NamesBooking s h b) : bookingAt s h.slot = some b := by
  simp [bookingAt, (namesBooking_slot hn)]

/-- Finishing writes the finished record and no other. -/
theorem finishBooking_bookings (s h b st rs) :
    (finishBooking s h b st rs).bookings = (updateBooking s h.slot (finished s st rs)).bookings := by
  unfold finishBooking
  have key : ∀ x : State, ∀ b, (removeFromHistory x b).bookings = x.bookings := by
    intro x b; unfold removeFromHistory; split
    · split <;> rfl
    · rfl
  cases st <;> simp [key]

/-- Finishing changes the bookings and the links, and makes the Planner stale. -/
theorem finishBooking_frame (s h b st rs) :
    finishBooking s h b st rs =
      { s with bookings := (finishBooking s h b st rs).bookings, links := (finishBooking s h b st rs).links,
               planner := { s.planner with stale := true } } := by
  unfold finishBooking
  have key : ∀ x : State, ∀ b, removeFromHistory x b = { x with links := (removeFromHistory x b).links } := by
    intro x b; unfold removeFromHistory; split
    · split <;> rfl
    · rfl
  cases st <;> dsimp only <;> first | rfl | (rw [key]; rfl)

/-- A removal from the histories leaves every link slot as `withoutEpisode` says. -/
theorem removeFromHistory_links (s b) (i : Nat) :
    (removeFromHistory s b).links[i]? = (s.links[i]?).map (withoutEpisode b i) := by
  have hid : ∀ sl : LinkSlot, (sl.link = none ∨ b.link ≠ some ⟨i, sl.lastTag⟩ ∨ b.episode = none) →
      withoutEpisode b i sl = sl := by
    rintro ⟨tag, lk⟩ h
    cases lk with
    | none => rfl
    | some l =>
      simp only [withoutEpisode, Option.map_some]
      rcases h with h | h | h
      · cases h
      · simp [h]
      · simp [h]
        intro _; congr 1; rw [List.filter_eq_self]; intro a _; rfl
  have hall : (∀ sl, s.links[i]? = some sl → withoutEpisode b i sl = sl) →
      s.links[i]? = (s.links[i]?).map (withoutEpisode b i) := by
    intro h
    cases hs : s.links[i]? with
    | none => rfl
    | some sl => simp [h sl hs]
  unfold removeFromHistory
  split
  · next hd e hl he =>
    split
    · next l hlo =>
      rw [updateLink_slot]
      have hslot := (linkOf_eq_some s hd l).mp hlo
      split
      · next hi =>
        subst hi
        simp [hslot, withoutEpisode, hl, he]
        congr 1; funext x; simp [bne, Bool.beq_comm]
      · next hi =>
        apply hall
        intro sl hs
        apply hid; right; left
        intro h'; rw [hl] at h'; injection h' with h'; apply hi; rw [h']
    · next hlo =>
      apply hall
      intro sl hs
      apply hid
      by_cases hlk : sl.link = none
      · exact .inl hlk
      · right; left
        intro h'; rw [hl] at h'; injection h' with h'
        subst h'
        obtain ⟨tag, lk⟩ := sl
        cases lk with
        | none => exact hlk rfl
        | some l => exact absurd ((linkOf_eq_some s ⟨i, tag⟩ l).mpr hs) (by simp [hlo])
  · next hne =>
    apply hall
    intro sl hs
    apply hid
    by_cases hlk : sl.link = none
    · exact .inl hlk
    · right
      by_cases hb : b.link = some ⟨i, sl.lastTag⟩
      · right
        cases he : b.episode with
        | none => rfl
        | some e => exact absurd he (hne _ _ hb)
      · exact .inl hb

/-- The stale flag under a condition, as one update. -/
theorem markStaleIf_eq (c : Bool) (x : State) :
    markStaleIf c x = { x with planner := { x.planner with stale := x.planner.stale || c } } := by
  cases c <;> simp [markStaleIf, markStale]

theorem zipIdx_modify {α : Type} (xs : List α) (i : Nat) (g : α → α) :
    (xs.modify i g).zipIdx = xs.zipIdx.map fun e => (if e.2 = i then g e.1 else e.1, e.2) := by
  apply List.ext_getElem?
  intro j
  rw [List.getElem?_map, List.getElem?_zipIdx, List.getElem?_zipIdx, List.getElem?_modify]
  cases xs[j]? with
  | none => simp
  | some x => by_cases h : i = j <;> simp [h, eq_comm]

/-- The list of bookings after one slot changed. -/
theorem occupied_updateBooking (s i f) :
    occupied (updateBooking s i f) = (occupied s).map fun e => (e.1, if e.1.slot = i then f e.2 else e.2) := by
  unfold occupied
  rw [updateBooking_bookings, zipIdx_modify, List.filterMap_map, List.map_filterMap]
  congr 1; funext e
  obtain ⟨⟨tag, b⟩, j⟩ := e
  by_cases h : j = i
  · cases b <;> simp [h]
  · cases b <;> simp [h]

/-- The list of bookings is in ascending slot order. -/
theorem occupied_sorted (s : State) : ((occupied s).map fun e => e.1.slot).Pairwise (· < ·) := by
  unfold occupied
  have : ∀ (xs : List BookingSlot) (n : Nat),
      ((((xs.zipIdx n).filterMap fun (sl, i) => sl.booking.map fun b => ((⟨i, sl.lastTag⟩ : Handle), b))).map
          fun e => e.1.slot).Pairwise (· < ·) ∧
        ∀ x ∈ (((xs.zipIdx n).filterMap fun (sl, i) =>
            sl.booking.map fun b => ((⟨i, sl.lastTag⟩ : Handle), b))).map fun e => e.1.slot, n ≤ x := by
    intro xs
    induction xs with
    | nil => intro n; simp
    | cons x xs ih =>
      intro n
      obtain ⟨h1, h2⟩ := ih (n+1)
      rw [List.zipIdx_cons]
      cases hb : x.booking with
      | none => rw [List.filterMap_cons_none (by simp [hb])]; exact ⟨h1, fun y hy => by have := h2 y hy; omega⟩
      | some b =>
        rw [List.filterMap_cons_some (b := ((⟨n, x.lastTag⟩ : Handle), b)) (by simp [hb])]
        rw [List.map_cons, List.pairwise_cons]
        refine ⟨⟨fun y hy => by have := h2 y hy; simp only; omega, h1⟩, ?_⟩
        intro y hy
        rcases List.mem_cons.mp hy with rfl | hy
        · exact Nat.le_refl _
        · have := h2 y hy; omega
  exact (this s.bookings 0).1

/-- No slot is twice in the list of bookings. -/
theorem occupied_nodup (s : State) : ((occupied s).map fun e => e.1.slot).Nodup :=
  (occupied_sorted s).imp fun h => Nat.ne_of_lt h

/-- The two names of the finished record. -/
theorem asFinished_eq (s st rs b) : finished s st rs b = asFinished s st rs b := rfl

/-- A booking that failed or was missed is out of the history of its link (R60). -/
theorem finish_history {s h b st rs} (hst : st = .failed ∨ st = .missed) : HistoryRemoved s (finishBooking s h b st rs) b := by
  intro i
  rcases hst with rfl | rfl <;> simp only [finishBooking] <;> rw [removeFromHistory_links] <;> rfl

/-- A Timer event that is due is taken. -/
theorem timer_taken {s slot b due take} (h : bookingAt s slot = some b) (hd : due b = true) :
    onTimer s slot due take = .next (settle (take ⟨slot, tagAt s slot⟩ b)) := by simp [onTimer, h, hd]

/-- A Timer event that is not due is not taken. -/
theorem timer_idle {s slot due take} (h : ∀ b, bookingAt s slot = some b → due b = false) :
    onTimer s slot due take = .next s := by
  unfold onTimer
  split
  · next b hb => simp [h b hb]
  · rfl

theorem namesLink_check {s h l} (hn : NamesLink s h l) : checkLink s h = .ok l := by
  obtain ⟨h1, h2, h3⟩ := hn
  simp [checkLink, linkHandleInRange, h1, h2, h3]

theorem namesLink_slot {s h l} (hn : NamesLink s h l) : s.links[h.slot]? = some ⟨h.tag, some l⟩ :=
  (linkOf_eq_some s h l).mp hn.2.2

theorem namesLink_at {s h l} (hn : NamesLink s h l) : linkAt s h.slot = some l := by
  simp [linkAt, (namesLink_slot hn)]

theorem namesLink_tag {s h l} (hn : NamesLink s h l) : linkTagAt s h.slot = h.tag := by
  simp [linkTagAt, (namesLink_slot hn)]

theorem updateLink_agree (s : State) (i f) : LinksAgreeBut i s (updateLink s i f) := by
  intro j hj; rw [updateLink_slot, if_neg (Ne.symm hj)]

theorem updateLink_record {s : State} {i l} (f) (h : linkAt s i = some l) :
    HoldsLink s (updateLink s i f) i (f l) := by
  unfold HoldsLink
  rw [updateLink_slot, if_pos rfl, (linkAt_eq_some s i l).mp h]; rfl

theorem freeLink_agree (s : State) (i) : LinksAgreeBut i s (freeLink s i) := by
  intro j hj; rw [freeLink_slot, if_neg (Ne.symm hj)]

theorem bookingsOf_count (s h) : (bookingsOf s h).length = ((occupied s).countP fun e => decide (e.2.link = some h)) := by
  unfold bookingsOf; rw [← List.countP_eq_length_filter]; congr 1; funext e; rw [Bool.eq_iff_iff]; simp

/-- A request that its block refuses is refused. -/
theorem refusedWith_of {s r d c x} (h : exec (completionOf r) s = completed r d x) (hx : x = refuse s c) : RefusedWith s r d c := by
  obtain ⟨t, h1, h2, h3⟩ := refused_next s r d c
  exact ⟨t, by rw [h, hx]; exact h1, h2, h3⟩

/-- A link handle that is refused (R48). -/
theorem checkLink_refused {s h c} (hr : linkRefusal s h = some c) : checkLink s h = .error c := by
  unfold linkRefusal at hr
  unfold checkLink linkHandleInRange
  split at hr
  · next h1 =>
    rw [if_neg (by simp; omega)]; simpa using hr
  · next h1 =>
    rw [if_pos (by simp; omega)]
    split at hr
    · next h2 => simp [h2]; simpa using hr
    · cases hr

/-- A record replaced stands in its slot. -/
theorem bookingAt_update {s : State} {i b} (b1 : Booking) (h : bookingAt s i = some b) : bookingAt (updateBooking s i fun _ => b1) i = some b1 := by
  have hs1 := updateBooking_record (fun _ => b1) h
  unfold HoldsBooking at hs1; simp only [bookingAt, hs1]; rfl

/-- A record that changes keeps the tag of its slot. -/
theorem tagAt_update (s : State) (i f j) : tagAt (updateBooking s i f) j = tagAt s j := by
  unfold tagAt; rw [updateBooking_slot]
  split
  · next h => subst h; cases s.bookings[i]? <;> rfl
  · rfl

/-- The streams beside a booking do not depend on its record. -/
theorem countedOn_update (s : State) (i : Nat) (f) (T) : countedOn (updateBooking s i f) T (some i) = countedOn s T (some i) := by
  unfold countedOn runningOn
  rw [occupied_updateBooking, List.filter_filter, List.filter_filter]
  induction occupied s with
  | nil => rfl
  | cons e es ih =>
    rw [List.map_cons, List.filter_cons, List.filter_cons, ih]
    by_cases h : e.1.slot = i
    · simp [h]
    · simp [h]

end Sys2Proof.Machine
end

