-- ==== Sys2Proof/Laws/Fields.lean ====
section
/-! SUPPORT. The checks of request fields and of pairs, in the terms of Safety.lean. -/

namespace Sys2Proof.Machine

theorem isChannel_iff (n) : isChannel n = true ↔ 1 ≤ n ∧ n ≤ 9999 := by simp [isChannel]

theorem entryOf_eq (s : State) (hp : (s.map.entries.map fun e => e.channel).Pairwise (· < ·)) (e)
    (he : e ∈ s.map.entries) :
    entryOf s e.channel = some e := by
  unfold entryOf
  generalize s.map.entries = xs at *
  induction xs with
  | nil => cases he
  | cons x xs ih =>
    rw [List.map_cons, List.pairwise_cons] at hp
    rcases List.mem_cons.mp he with rfl | he
    · simp
    · have := hp.1 e.channel (List.mem_map.mpr ⟨e, he, rfl⟩)
      rw [List.find?_cons_of_neg (by simp; omega)]
      exact ih hp.2 he

theorem entryOf_none (s : State) (c) : entryOf s c = none ↔ ∀ e ∈ s.map.entries, e.channel ≠ c := by
  unfold entryOf; rw [List.find?_eq_none]; simp

theorem tunerOf_code (T) : tunerOf (tunerCode T) = some T := by cases T <;> rfl

theorem kindOf_code (k) : holdKindOf (holdKindCode k) = some k := by cases k <;> rfl

theorem pairNamed_prim (b : Booking) : pairNamed b .primary = pairOf b.primary := rfl

theorem pairNamed_alt (b : Booking) : pairNamed b .alternative = optionPair b.alternative := rfl

/-- A booking carries a pair when one of its showings does. -/
theorem carries_iff (b : Booking) (p) : (carries b p).isSome = true ↔ ∃ u ∈ bothShowings, pairNamed b u = some p := by
  unfold carries bothShowings
  constructor
  · intro h
    split at h
    · next h1 => exact ⟨.primary, by simp, h1⟩
    · split at h
      · next h1 => exact ⟨.alternative, by simp, h1⟩
      · cases h
  · rintro ⟨u, hu, h⟩
    cases u
    · rw [pairNamed_prim] at h; simp [h]
    · rw [pairNamed_alt] at h
      split
      · rfl
      · simp

/-- The search for a pair says what `PairStands` says. -/
theorem pairStands_iff (s but p) : pairStands s but p = true ↔ PairStands s but p := by
  unfold pairStands PairStands
  cases p with
  | none => simp
  | some q =>
    simp only [List.any_eq_true, Option.isSome_some, true_and]
    apply exists_congr; intro e
    rw [Bool.and_eq_true, carries_iff]
    simp

/-- The DUPLICATE check says what `DuplicateShowings` says. -/
theorem duplicates_iff (s but p a) : duplicates s but p a = true ↔ DuplicateShowings s but p a := by
  unfold duplicates DuplicateShowings samePair
  simp [pairStands_iff, or_assoc]

theorem checkShowing_ok (v : Showing) (h : ShowingAccepted v) : checkShowing v = some (clampedShowing v) := by
  obtain ⟨⟨h1, h2⟩, h3⟩ := h
  simp [checkShowing, isChannel, h1, h2, h3, clampDuration, clampBetween, clampedShowing]

theorem checkShowing_bad (v : Showing) (h : ¬ ShowingAccepted v) : checkShowing v = none := by
  unfold checkShowing
  have : (isChannel v.channel && v.duration != 0) = false := by
    rw [Bool.eq_false_iff]; intro hx
    simp [isChannel] at hx
    exact h ⟨hx.1, hx.2⟩
  simp [this]

theorem checkOpt_ok (v : Option Showing) (h : ∀ x ∈ v.toList, ShowingAccepted x) :
    checkOptionalShowing v = some (v.map clampedShowing) := by
  cases v with
  | none => rfl
  | some x => simp [checkOptionalShowing, checkShowing_ok x (h x (by simp))]

theorem checkOpt_bad (v : Option Showing) (h : ¬ ∀ x ∈ v.toList, ShowingAccepted x) :
    checkOptionalShowing v = none := by
  cases v with
  | none => exact absurd (by simp) h
  | some x =>
    have : ¬ ShowingAccepted x := fun hx => h (by simpa using hx)
    simp [checkOptionalShowing, checkShowing_bad x this]

/-- Accepted fields of ADD_BOOKING are stored clamped. -/
theorem checkAdd_ok {f} (h : AddAccepted f) : checkAddBooking f = some (clampedAdd f) := by
  obtain ⟨h1, h2, h3⟩ := h
  have : idAllowed f.episode = true := by simp [idAllowed, h3]
  simp only [checkAddBooking, checkShowing_ok _ h1, checkOpt_ok _ h2, this, if_true]
  rfl

/-- Refused fields of ADD_BOOKING. -/
theorem checkAdd_bad {f} (h : ¬ AddAccepted f) : checkAddBooking f = none := by
  unfold checkAddBooking
  by_cases h1 : ShowingAccepted f.primary
  · by_cases h2 : ∀ v ∈ f.alternative.toList, ShowingAccepted v
    · have : idAllowed f.episode = false := by
        rw [Bool.eq_false_iff]; intro hx
        exact h ⟨h1, h2, by simpa [idAllowed] using hx⟩
      simp [checkShowing_ok _ h1, checkOpt_ok _ h2, this]
    · simp [checkOpt_bad _ h2]
  · simp [checkShowing_bad _ h1]

/-- With unique pairs the search finds the one showing that carries the pair. -/
theorem findPair_spec (s : State) (p : Nat × Nat) (hu : PairsUnique s) (e) (he : e ∈ occupied s) (u)
    (hm : pairNamed e.2 u = some p) :
    findPair s p = some (e.1, e.2, u) := by
  unfold findPair
  have hb : ∀ u : ShowingUsed, u ∈ bothShowings := by intro u; cases u <;> simp [bothShowings]
  have huniq : ∀ f ∈ occupied s, ∀ v, pairNamed f.2 v = some p → f = e ∧ v = u := by
    intro f hf v hv
    have := hu f hf e he v (hb v) u (hb u) (by simp [hv]) (by rw [hv, hm])
    obtain ⟨g, b⟩ := f; obtain ⟨g', b'⟩ := e
    obtain ⟨h1, h2⟩ := occupied_slot_unique hf he this.1
    exact ⟨by rw [h1, h2], this.2⟩
  have hc : carries e.2 p = some u := by
    unfold carries
    cases u
    · rw [pairNamed_prim] at hm; simp [hm]
    · rw [pairNamed_alt] at hm
      split
      · next h1 => have := (huniq e he .primary h1).2; cases this
      · simp
  cases hf : (occupied s).findSome? (fun (h, b) => (carries b p).map fun u => (h, b, u)) with
  | none =>
    rw [List.findSome?_eq_none_iff] at hf
    have := hf e he; simp [hc] at this
  | some x =>
    obtain ⟨l1, f, l2, h1, h2, h3⟩ := List.findSome?_eq_some_iff.mp hf
    rw [Option.map_eq_some_iff] at h2
    obtain ⟨v, hv, rfl⟩ := h2
    have hfm : f ∈ occupied s := by rw [h1]; simp
    have hpv : pairNamed f.2 v = some p := by
      unfold carries at hv
      split at hv
      · injection hv with hv; subst hv; assumption
      · split at hv
        · injection hv with hv; subst hv; assumption
        · cases hv
    obtain ⟨rfl, rfl⟩ := huniq f hfm v hpv
    rfl

/-- The search finds nothing for a pair no booking carries. -/
theorem findPair_none (s : State) (p : Nat × Nat) (h : ¬ PairStands s none (some p)) : findPair s p = none := by
  unfold findPair
  rw [List.findSome?_eq_none_iff]
  intro e he
  cases hc : carries e.2 p with
  | none => simp [hc]
  | some u =>
    exfalso; apply h
    refine ⟨rfl, e, he, by simp, ?_⟩
    rw [← carries_iff]; simp [hc]

/-- Accepted fields of AMEND_BOOKING are stored clamped, follow apart. -/
theorem checkAmend_ok {f} (h : AmendAccepted f) :
    checkAmendBooking f =
      some
        { primary := clampedShowing f.primary, alternative := f.alternative.map clampedShowing
          prePad := min 7200 f.prePad, postPad := min 7200 f.postPad, priority := min 7 f.priority
          follow := f.follow } := by
  obtain ⟨h1, h2⟩ := h
  simp only [checkAmendBooking, checkShowing_ok _ h1, checkOpt_ok _ h2]
  rfl

theorem relevant_iff (b : Booking) (c : AmendBookingFields) :
    relevantChange b c = true ↔
      ¬ (c.primary = b.primary ∧ c.alternative = b.alternative ∧ c.prePad = b.prePad ∧ c.postPad = b.postPad ∧
        c.priority = b.priority) := by
  simp [relevantChange]
  constructor
  · intro h a1 a2 a3 a4 a5
    rcases h with (((h|h)|h)|h)|h <;> simp_all
  · intro h
    by_contra hc
    push Not at hc
    obtain ⟨⟨⟨⟨h1,h2⟩,h3⟩,h4⟩,h5⟩ := hc
    exact h h1.symm h2.symm h3.symm h4.symm h5.symm

/-- Accepted link fields are stored clamped. -/
theorem checkLinkFields_ok {f} (h : LinkFieldsAccepted f) : checkLinkFields f = some (clampedLink f) ∧
   linkPolicyOf f.policy = some (if f.policy = 0 then .newOnly else .all) := by
  obtain ⟨h1, h2⟩ := h
  have h3 : f.policy = 0 ∨ f.policy = 1 := by omega
  have hp : linkPolicyOf f.policy = some (if f.policy = 0 then .newOnly else .all) := by
    rcases h3 with h | h <;> rw [h] <;> rfl
  refine ⟨?_, hp⟩
  unfold checkLinkFields
  rw [hp]
  have : (isChannel f.preference || f.preference == 65535) = true := by
    simp [isChannel]; omega
  simp only [this, Option.isSome_some, Bool.and_self, if_true]
  rfl

/-- Fields of an amend that are refused (R4). -/
theorem checkAmend_bad {f} (h : ¬ AmendAccepted f) : checkAmendBooking f = none := by
  unfold checkAmendBooking
  by_cases h1 : ShowingAccepted f.primary
  · have h2 : ¬ ∀ v ∈ f.alternative.toList, ShowingAccepted v := fun h2 => h ⟨h1, h2⟩
    simp [checkOpt_bad _ h2]
  · simp [checkShowing_bad _ h1]

/-- The fields of an amend as they are stored, with follow judged by the showing in use (R5). -/
theorem clampedAmend_eq (used : ShowingUsed) (f : AmendBookingFields) :
    ({ primary := clampedShowing f.primary, alternative := Option.map clampedShowing f.alternative, prePad := min 7200 f.prePad, postPad := min 7200 f.postPad, priority := min 7 f.priority, follow := followFor (amendShowing { primary := clampedShowing f.primary, alternative := Option.map clampedShowing f.alternative, prePad := min 7200 f.prePad, postPad := min 7200 f.postPad, priority := min 7 f.priority, follow := f.follow } used) f.follow } : AmendBookingFields) = clampedAmend used f := by
  cases used
  · rfl
  · unfold clampedAmend amendShowing followFor
    cases f.alternative <;> rfl

/-- The amends of a running booking that R15 allows. -/
theorem runningAmendAllowed_iff {b : Booking} {r : RunningPlacement} {v : Showing} (hr : b.running = some r) (hv : showingNamed b r.used = some v) (c : AmendBookingFields) :
    runningAmendAllowed b c = true ↔ ∃ w, RunningAmend b r.used v w c := by
  unfold runningAmendAllowed usedOf RunningAmend
  simp only [hr, Bool.and_eq_true, beq_iff_eq]
  cases hu : r.used
  · rw [hu] at hv
    simp [showingNamed] at hv
    simp [sameButDuration, hv]
    constructor
    · rintro ⟨a, e, g⟩; exact ⟨a.symm, e.symm, g.symm⟩
    · rintro ⟨a, e, g⟩; exact ⟨a.symm, e.symm, g.symm⟩
  · rw [hu] at hv
    simp [showingNamed] at hv
    rw [hv]
    cases hc : c.alternative with
    | none => simp [sameButDuration]
    | some a =>
      simp [sameButDuration]
      constructor
      · rintro ⟨a, e, g⟩; exact ⟨a.symm, g.symm, e.symm⟩
      · rintro ⟨a, e, g⟩; exact ⟨a.symm, g.symm, e.symm⟩

/-- Link fields that are refused (R49). -/
theorem checkLinkFields_bad {f} (h : ¬ LinkFieldsAccepted f) : checkLinkFields f = none := by
  unfold checkLinkFields
  have : ((isChannel f.preference || f.preference == 65535) && (linkPolicyOf f.policy).isSome) = false := by
    rw [Bool.eq_false_iff]; intro hx
    simp [isChannel] at hx
    refine h ⟨by omega, ?_⟩
    by_contra hc
    match hp : f.policy, hc with
    | n+2, _ => rw [hp] at hx; simp [linkPolicyOf] at hx
  simp [this]

end Sys2Proof.Machine
end

