-- ==== Sys2Proof/Laws/EndMoves.lean ====
section
/-! SUPPORT. The close of a running booking and its end move: what they read, and what they leave alone. -/

namespace Sys2Proof.Machine

/-- The extension check of R145. -/
theorem extensionGranted_iff (s : State) (i : Nat) (b : Booking) (r : RunningPlacement) : extensionGranted s i b r = true ↔ Extends s i b r := by
  unfold extensionGranted Extends
  simp [Config.extensionLimit, and_assoc]

/-- The extension check does not depend on the record in the table. -/
theorem extends_update (s : State) (i : Nat) (f b r) : Extends (updateBooking s i f) i b r ↔ Extends s i b r := by
  unfold Extends
  rw [countedOn_update]; rfl

/-- A RECORDING booking is extended or completed at its close (R144, R145). -/
theorem closeBooking_recording (s h b r) (hst : b.state = .recording) (hr : b.running = some r) : closeBooking s h b = if extensionGranted s h.slot b r then markStale (updateBooking s h.slot (extended s r)) else finishBooking s h b .completed none := by
  unfold closeBooking; rw [hst, hr]

/-- An end move changes bookings, links and the planner alone. -/
theorem moveEnd_frame (s h b p) : moveEnd s h b p = { s with bookings := (moveEnd s h b p).bookings, links := (moveEnd s h b p).links, planner := (moveEnd s h b p).planner } := by
  unfold moveEnd
  split
  · rfl
  · split
    · rfl
    · dsimp only
      split
      · unfold closeBooking
        split
        · rw [finishBooking_frame]; rfl
        · split
          · rfl
          · rw [finishBooking_frame]; rfl
        · rw [finishBooking_frame]; rfl
        all_goals rfl
      · rw [markStaleIf_eq]; rfl

/-- An end move is read from three fields of the state after it. -/
theorem endMoved_of_eq {s t t' : State} {i b r w p} (h : EndMoved s t i b r w p) (h1 : t'.bookings = t.bookings) (h2 : t'.planner = t.planner) (h3 : t'.links = t.links) : EndMoved s t' i b r w p := by
  unfold EndMoved HoldsBooking HistoryRemoved at *
  rw [h1, h2, h3]; exact h

/-- An end move may be read from the state before the fields were stored. -/
theorem endMoved_before {s t : State} {i b r w p f} (h : EndMoved (updateBooking s i f) t i b r w p) : EndMoved s t i b r w p := by
  unfold EndMoved HoldsBooking at *
  simp only [extends_update, tagAt_update] at h
  exact h

end Sys2Proof.Machine
end

