-- ==== Sys2Proof/Laws/Helpers.lean ====
section
/-! SUPPORT. The helpers of the tables and the Planner: sorting, bounds, tags, versions, occupants. -/

namespace Sys2Proof.Machine

/-- The tag after a tag (R2). -/
theorem tagAfter_spec (t : Nat) (h : t ≤ 255) : tagAfter t = if t = 255 then 1 else t + 1 := by
  unfold tagAfter; split <;> split <;> omega

/-- Going up from a version stops at the first that is not to be avoided (R6). -/
theorem stepOver_spec (avoid : List Nat) (v : Nat) (n : Nat) (k : Nat) 
    (hk : ∀ j, 1 ≤ j → j < k → (v + j) % 256 ∈ avoid)
    (hex : ∃ m, k ≤ m ∧ m < k + n ∧ (v + m) % 256 ∉ avoid) (hk1 : 1 ≤ k) :
    ∃ m, 1 ≤ m ∧ m < k + n ∧ stepOver avoid n ((v + k) % 256) = (v + m) % 256 ∧ (v + m) % 256 ∉ avoid ∧
      ∀ j, 1 ≤ j → j < m → (v + j) % 256 ∈ avoid := by
  induction n generalizing k with
  | zero => obtain ⟨m, h1, h2, _⟩ := hex; omega
  | succ n ih =>
    by_cases h : (v + k) % 256 ∈ avoid
    · obtain ⟨m, h1, h2, h3⟩ := hex
      have hm : k ≠ m := by rintro rfl; exact h3 h
      obtain ⟨q, a1, a2, a3, a4, a5⟩ := ih (k+1) (by
        intro j hj hj2; by_cases hjk : j = k
        · subst hjk; exact h
        · exact hk j hj (by omega)) ⟨m, by omega, by omega, h3⟩ (by omega)
      refine ⟨q, a1, by omega, ?_, a4, a5⟩
      rw [← a3, stepOver, if_pos (by simpa using h)]
      congr 1; omega
    · refine ⟨k, hk1, by omega, ?_, h, hk⟩
      rw [stepOver, if_neg (by simpa using h)]

theorem insertRanked_perm (x) (ys) : (insertRanked x ys).Perm (x :: ys) := by
  induction ys with
  | nil => exact .refl _
  | cons y ys ih =>
    simp only [insertRanked]
    split
    · exact (ih.cons y).trans (.swap x y ys)
    · exact .refl _

/-- Sorting keeps the entries. -/
theorem sortRanked_perm (xs) : (sortRanked xs).Perm xs := by
  induction xs with
  | nil => exact .refl _
  | cons x xs ih => exact (insertRanked_perm x _).trans (ih.cons x)

/-- An insertion keeps the items. -/
theorem insertListed_perm (x) (ys) : (insertListed x ys).Perm (x :: ys) := by
  induction ys with
  | nil => exact .refl _
  | cons y ys ih =>
    simp only [insertListed]
    split
    · exact (ih.cons y).trans (.swap x y ys)
    · exact .refl _

/-- Insertions one after another keep the items. -/
theorem fold_perm (xs acc : List Listed) : (xs.foldl (fun acc x => insertListed x acc) acc).Perm (xs ++ acc) := by
  induction xs generalizing acc with
  | nil => exact .refl _
  | cons x xs ih =>
    refine (ih _).trans ?_
    refine ((insertListed_perm x acc).append_left xs).trans ?_
    exact List.perm_middle

/-- The smallest member of a list and a bound. -/
theorem least_spec (bound : Nat) (xs : List Nat) :
    (least bound xs = bound ∨ least bound xs ∈ xs) ∧ least bound xs ≤ bound ∧
      ∀ x ∈ xs, least bound xs ≤ x := by
  induction xs with
  | nil => simp [least]
  | cons x xs ih =>
    have : least bound (x :: xs) = min x (least bound xs) := rfl
    rw [this]
    obtain ⟨h1, h2, h3⟩ := ih
    refine ⟨?_, by omega, ?_⟩
    · rcases Nat.le_total x (least bound xs) with h | h
      · right; rw [Nat.min_eq_left h]; simp
      · rw [Nat.min_eq_right h]
        rcases h1 with h1 | h1
        · exact .inl h1
        · right; simp [h1]
    · intro y hy
      rcases List.mem_cons.mp hy with rfl | hy
      · omega
      · have := h3 y hy; omega

/-- The largest member of a list and a bound. -/
theorem greatest_spec (bound : Nat) (xs : List Nat) :
    (greatest bound xs = bound ∨ greatest bound xs ∈ xs) ∧ bound ≤ greatest bound xs ∧
      ∀ x ∈ xs, x ≤ greatest bound xs := by
  induction xs with
  | nil => simp [greatest]
  | cons x xs ih =>
    have : greatest bound (x :: xs) = max x (greatest bound xs) := rfl
    rw [this]
    obtain ⟨h1, h2, h3⟩ := ih
    refine ⟨?_, by omega, ?_⟩
    · rcases Nat.le_total (greatest bound xs) x with h | h
      · right; rw [Nat.max_eq_left h]; simp
      · rw [Nat.max_eq_right h]
        rcases h1 with h1 | h1
        · exact .inl h1
        · right; simp [h1]
    · intro y hy
      rcases List.mem_cons.mp hy with rfl | hy
      · omega
      · have := h3 y hy; omega

/-- When an occupant covers an instant. -/
theorem covers_iff (o : Occupant) (i : Nat) : o.covers i = true ↔ o.openAt ≤ i ∧ ∀ c ∈ o.closeAt.toList, i < c := by
  cases hc : o.closeAt <;> simp [Occupant.covers, hc]

/-- When an instant is free (R107). -/
theorem isFree_iff (bd : Board) (T key i) : bd.isFree T key i = true ↔
    (∀ o ∈ bd.occupants, o.tuner = T → o.openAt ≤ i → (∀ c ∈ o.closeAt.toList, i < c) → o.key = key) ∧
            (bd.occupants.countP fun o =>
              decide (o.tuner = T ∧ o.openAt ≤ i ∧ ∀ c ∈ o.closeAt.toList, i < c)) < bd.limit := by
  have hcount : (bd.covering T i).length = (bd.occupants.countP fun o =>
              decide (o.tuner = T ∧ o.openAt ≤ i ∧ ∀ c ∈ o.closeAt.toList, i < c)) := by
    unfold Board.covering Board.onTuner
    rw [List.filter_filter, ← List.countP_eq_length_filter]
    congr 1; funext o
    rw [Bool.eq_iff_iff]
    simp [covers_iff, and_comm]
  unfold Board.isFree
  rw [Bool.and_eq_true, decide_eq_true_iff, hcount, List.all_eq_true]
  apply and_congr _ Iff.rfl
  constructor
  · intro h o ho ht h1 h2
    have : o ∈ bd.covering T i := by
      simp only [Board.covering, Board.onTuner, List.mem_filter]
      exact ⟨⟨ho, by simpa using ht⟩, (covers_iff o i).mpr ⟨h1, h2⟩⟩
    simpa using h o this
  · intro h o ho
    simp only [Board.covering, Board.onTuner, List.mem_filter, covers_iff] at ho
    simpa using h o ho.1.1 (by simpa using ho.1.2) ho.2.1 ho.2.2

theorem longest_none (ws) : longest ws = none ↔ ws = [] := by
  cases ws with
  | nil => simp [longest]
  | cons y ys => simp only [longest]; constructor
                 · intro hn; split at hn <;> [cases hn; (split at hn <;> cases hn)]
                 · intro h; cases h

/-- The longest window is no shorter than any other, and longer than those before it. -/
theorem longest_spec (ws : List (Tuner × Nat × Nat)) (w) (h : longest ws = some w) :
    ∃ b a, ws = b ++ w :: a ∧ (∀ v ∈ b, v.2.2 - v.2.1 < w.2.2 - w.2.1) ∧ (∀ v ∈ a, v.2.2 - v.2.1 ≤ w.2.2 - w.2.1) := by
  induction ws generalizing w with
  | nil => cases h
  | cons x xs ih =>
    simp only [longest] at h
    split at h
    · next hn =>
      injection h with h; subst h
      refine ⟨[], xs, rfl, by simp, ?_⟩
      cases xs with
      | nil => simp
      | cons y ys => simp only [longest] at hn; split at hn <;> [cases hn; (split at hn <;> cases hn)]
    · next v hv =>
      obtain ⟨b, a, rfl, h1, h2⟩ := ih v hv
      split at h
      · next hlt =>
        injection h with h; subst h
        refine ⟨x :: b, a, rfl, ?_, h2⟩
        intro u hu
        rcases List.mem_cons.mp hu with rfl | hu
        · exact hlt
        · exact h1 u hu
      · next hlt =>
        injection h with h; subst h
        refine ⟨[], _, rfl, by simp, ?_⟩
        intro u hu
        rcases List.mem_append.mp hu with hu | hu
        · have := h1 u hu; omega
        · rcases List.mem_cons.mp hu with rfl | hu
          · omega
          · have := h2 u hu; omega

theorem putEntry_mem (e es) (x) (hx : x ∈ putEntry e es) : x = e ∨ x ∈ es := by
  induction es with
  | nil => simpa [putEntry] using hx
  | cons y ys ih =>
    simp only [putEntry] at hx
    split at hx
    · simpa using hx
    · split at hx
      · rcases List.mem_cons.mp hx with h | h
        · exact .inl h
        · right; simp [h]
      · rcases List.mem_cons.mp hx with h | h
        · right; simp [h]
        · rcases ih h with h | h
          · exact .inl h
          · right; simp [h]

theorem find_put (e es c) (hc : c ≠ e.channel) : (putEntry e es).find? (·.channel == c) = es.find? (·.channel == c) := by
  induction es with
  | nil => simp [putEntry, Ne.symm hc]
  | cons y ys ih =>
    simp only [putEntry]
    split
    · rw [List.find?_cons_of_neg (by simp [Ne.symm hc])]
    · split
      · next h => 
        rw [List.find?_cons_of_neg (by simp [Ne.symm hc]), List.find?_cons_of_neg (by simp [← h, Ne.symm hc])]
      · rw [List.find?_cons, List.find?_cons, ih]

theorem find_put_self (e es) : (putEntry e es).find? (·.channel == e.channel) = some e := by
  induction es with
  | nil => simp [putEntry]
  | cons y ys ih =>
    simp only [putEntry]
    split
    · simp
    · split
      · simp
      · next h => rw [List.find?_cons_of_neg (by simp only [beq_iff_eq]; exact fun h' => h h'.symm), ih]

/-- s is the sign of the remaining slew (R158). -/
theorem slewSign_eq (z : Int) : slewSign z = z.sign := by
  unfold slewSign
  split
  · next h => exact (Int.sign_eq_one_of_pos h).symm
  · next h =>
    split
    · next h' => exact (Int.sign_eq_neg_one_of_neg h').symm
    · have : z = 0 := by omega
      subst this; rfl

/-- When the next planner event abandons the pass (R118). -/
theorem abandonDue_iff (s : State) : abandonDue s = true ↔ s.planner.pass.isSome = true ∧ Abandoning s := by
  simp [abandonDue, Abandoning, and_assoc]

/-- When an open point less a lead has been reached (R151, R152). -/
theorem approaches_iff (s : State) (lead b p) : approaches s lead b = some p ↔
    currentPlacement b = some p ∧ b.heldBack = false ∧ reached s (lapsePoint b) = false ∧ reached s (p.openAt - lead) = true := by
  unfold approaches
  split
  · next q hq =>
    rw [hq]
    by_cases hc : (!b.heldBack && !reached s (lapsePoint b) && reached s (q.openAt - lead)) = true
    · simp only [hc, if_true, Option.some.injEq]
      simp at hc
      constructor
      · rintro rfl; exact ⟨rfl, hc.1.1, hc.1.2, hc.2⟩
      · intro h; exact h.1
    · simp only [hc]
      constructor
      · intro h; cases h
      · rintro ⟨h1, h2, h3, h4⟩
        injection h1 with h1; subst h1
        exact absurd (by simp [h2, h3, h4]) hc
  · next hq => rw [hq]; simp

/-- A tuner goes first in the order exactly when it carries the key (R110). -/
theorem carriesTheKey_iff (bd : Board) (w : Tried) (T : Tuner) : ((bd.onTuner T).any fun o => steersTo w o) = true ↔
    CarriesTheKey bd w T := by
  rw [List.any_eq_true]
  unfold CarriesTheKey
  constructor
  · rintro ⟨o, ho, hs⟩
    simp only [Board.onTuner, List.mem_filter] at ho
    refine ⟨o, ho.1, by simpa using ho.2, ?_⟩
    unfold steersTo at hs
    cases hc : o.closeAt <;> simp [hc] at hs <;> simp [hs]
  · rintro ⟨o, ho, ht, hk, hc⟩
    refine ⟨o, by simp [Board.onTuner, ho, ht], ?_⟩
    unfold steersTo
    cases hcl : o.closeAt with
    | none => simp [hk]
    | some c => have := hc c (by simp [hcl]); simp [hk]; omega

/-- The bytes of a list of handles (R192). -/
theorem listResults_eq (hs : List Handle) : listResults hs = listBytes hs := by
  unfold listResults listBytes
  simp only [oneByte, List.length_take, Config.listPlaces]
  congr 1
  cases hs[16]? <;> rfl

/-- A known kind and a payload decode to a request. -/
theorem decodeRequest_of_kind (kind : Byte) (n : Nat) (p : List Byte) (h : kindLength kind = some n) : ∃ r, decodeRequest kind p = some r := by
  unfold kindLength at h
  have : kind.toNat ∈ kindLengths.map (·.1) := by
    by_contra hc
    have : kindLengths.lookup kind.toNat = none := by
      rw [List.lookup_eq_none_iff]
      intro q hq; simp; intro he; apply hc; rw [he]; exact List.mem_map_of_mem hq
    rw [this] at h; cases h
  simp only [kindLengths, List.cons_append, List.nil_append, List.map_cons, List.map_nil, List.mem_cons, List.not_mem_nil, or_false] at this
  unfold decodeRequest
  rcases this with h | h | h | h | h | h | h | h | h | h | h | h | h | h | h | h | h | h | h | h | h | h | h | h | h | h | h | h | h | h | h | h | h | h | h <;> rw [h] <;> exact ⟨_, rfl⟩

end Sys2Proof.Machine
end

