-- ==== Sys2Proof/Laws/Images.lean ====
section
/-! SUPPORT. Fields of images: the value of each kind of field, and a field of a part among the bytes around it. -/

namespace Sys2Proof.Machine

/-- A field past a first part. -/
theorem fieldAt_right (a b : List Byte) (o n k : Nat) (h : a.length = k) (hk : k ≤ o) : fieldAt (a ++ b) o n = fieldAt b (o - k) n := by
  subst h
  unfold fieldAt
  rw [List.drop_append, List.drop_eq_nil_of_le hk, List.nil_append]

/-- A field within a first part. -/
theorem fieldAt_left (a b : List Byte) (o n k : Nat) (h : a.length = k) (hk : o + n ≤ k) : fieldAt (a ++ b) o n = fieldAt a o n := by
  subst h
  unfold fieldAt
  rw [List.drop_append_of_le_length (by omega), List.take_append_of_le_length (by simp; omega)]

/-- A field of one byte. -/
theorem fieldAt_oneByte (n : Nat) : fieldAt (oneByte n) 0 1 = n % 256 := by simp [fieldAt, oneByte]

/-- A field of two bytes. -/
theorem fieldAt_twoBytes (n : Nat) : fieldAt (twoBytes n) 0 2 = n % 65536 := by simp [fieldAt, twoBytes]; omega

/-- A field of four bytes. -/
theorem fieldAt_fourBytes (n : Nat) : fieldAt (fourBytes n) 0 4 = n % 4294967296 := by simp [fieldAt, fourBytes, twoBytes]; omega

/-- A signed field of two bytes. -/
theorem fieldAt_signedTwoBytes (z : Int) : (fieldAt (signedTwoBytes z) 0 2 : Int) = z % 65536 := by
  rw [signedTwoBytes, fieldAt_twoBytes]; omega

/-- The slot of a handle. -/
theorem fieldAt_handle_slot (h : Handle) : fieldAt (handleBytes h) 0 1 = h.slot % 256 := by simp [fieldAt, handleBytes, oneByte]

/-- The tag of a handle. -/
theorem fieldAt_handle_tag (h : Handle) : fieldAt (handleBytes h) 1 1 = h.tag % 256 := by simp [fieldAt, handleBytes, oneByte]

/-- A field of zeros (R193). -/
theorem fieldAt_zeros (k o n : Nat) : fieldAt (List.replicate k 0) o n = 0 := by
  unfold fieldAt
  rw [List.drop_replicate, List.take_replicate]
  generalize min n (k - o) = m
  induction m with
  | zero => rfl
  | succ m ih => rw [List.replicate_succ, List.foldl_cons]; simpa using ih

/-- A byte of flags, the first of the list in bit 0. -/
theorem fieldAt_flagByte (l : List Bool) (h : l.length ≤ 8) : fieldAt (flagByte l) 0 1 = l.foldr (fun b n => b.toNat + 2 * n) 0 := by
  simp [fieldAt, flagByte]
  have : ∀ l : List Bool, l.foldr (fun b n => b.toNat + 2 * n) 0 < 2 ^ l.length := by
    intro l; induction l with
    | nil => simp
    | cons b l ih => simp [pow_succ]; cases b <;> simp <;> omega
  have h1 := this l
  have : 2 ^ l.length ≤ 2 ^ 8 := Nat.pow_le_pow_right (by omega) h
  omega

/-- The bytes of a showing (section 12.1). -/
theorem showingStands_bytes (v : Showing) : ShowingStands (showingBytes v) 0 v := by
  unfold ShowingStands showingBytes
  refine ⟨?_, ?_, ?_, ?_, ?_⟩
  · cases v.event <;> simp [fieldAt, flagByte, twoBytes, fourBytes]
  all_goals simp [fieldAt, flagByte, twoBytes, fourBytes]
  all_goals omega

/-- A showing stands in an image that holds its bytes. -/
theorem showingStands_of {img o v} (h : ∀ i n, i + n ≤ 13 → fieldAt img (o + i) n = fieldAt (showingBytes v) i n) : ShowingStands img o v := by
  obtain ⟨a, b, c, d, e⟩ := showingStands_bytes v
  refine ⟨?_, ?_, ?_, ?_, ?_⟩
  · rw [← a]; exact h 0 1 (by omega)
  · rw [← b]; exact h 1 2 (by omega)
  · rw [← c]; exact h 3 2 (by omega)
  · rw [← d]; exact h 5 4 (by omega)
  · rw [← e]; exact h 9 4 (by omega)

/-- A field of a part with bytes before and after it. -/
theorem fieldAt_part (pre mid post : List Byte) (o k i n : Nat) (h1 : pre.length = o) (h2 : mid.length = k) (h3 : i + n ≤ k) :
    fieldAt (pre ++ (mid ++ post)) (o + i) n = fieldAt mid i n := by
  rw [fieldAt_right _ _ _ _ o h1 (by omega), fieldAt_left _ _ _ _ k h2 (by omega)]
  congr 1; omega

/-- The bytes of an optional showing are thirteen. -/
@[simp] theorem length_optionalShowingBytes (v : Option Showing) : (optionalShowingBytes v).length = 13 := by cases v <;> rfl

/-- The bytes of the installed parts are thirteen. -/
@[simp] theorem length_installedBytes (v : Option Evaluation) : (installedBytes v).length = 13 := by
  cases v with
  | none => rfl
  | some e => obtain ⟨v, _, _, _⟩ := e; cases v <;> rfl

/-- The bytes of the running placement are fourteen. -/
@[simp] theorem length_runningBytes (v : Option RunningPlacement) : (runningBytes v).length = 14 := by cases v <;> rfl

end Sys2Proof.Machine
end

