-- ==== Sys2Proof/Laws/Tuners.lean ====
section
/-! SUPPORT. Records kept for each tuner and each band, and the dropping of holds. -/

namespace Sys2Proof.Machine

@[simp] theorem PerTuner.put_at {α : Type} (p : PerTuner α) (t u : Tuner) (a : α) :
    (p.put t a).at u = if u = t then a else p.at u := by cases t <;> cases u <;> rfl

@[simp] theorem Bands.put_at (b : Bands) (i j : Fin 4) (e : EligibleSet) :
    (b.put i e).at j = if j = i then e else b.at j := by
  match i, j with
  | 0, 0 | 0, 1 | 0, 2 | 0, 3 | 1, 0 | 1, 1 | 1, 2 | 1, 3 | 2, 0 | 2, 1 | 2, 2 | 2, 3 | 3, 0 | 3, 1 | 3, 2
  | 3, 3 => rfl

/-- A dropped hold is absent with its reason; a tuner without a hold, and the other tuner, keep their records. -/
theorem dropHold_at (s : State) (t u : Tuner) (r : DropReason) :
    (dropHold s t r).holds.at u = if u = t ∧ (s.holds.at t).hold.isSome then ⟨none, r⟩ else s.holds.at u := by
  unfold dropHold
  by_cases h : (s.holds.at t).hold.isSome <;> simp [h]

/-- Every present hold is dropped with the reason. -/
theorem dropHolds_at (s : State) (u : Tuner) (r : DropReason) :
    (dropHolds s r).holds.at u = if (s.holds.at u).hold.isSome then ⟨none, r⟩ else s.holds.at u := by
  unfold dropHolds
  rw [dropHold_at, dropHold_at, dropHold_at]
  cases u <;> simp

/-- Dropping holds changes the holds alone. -/
theorem dropHold_frame (s : State) (t : Tuner) (r : DropReason) :
    dropHold s t r = { s with holds := (dropHold s t r).holds } := by
  unfold dropHold; split <;> rfl

theorem dropHolds_frame (s : State) (r : DropReason) :
    dropHolds s r = { s with holds := (dropHolds s r).holds } := by
  unfold dropHolds
  rw [dropHold_frame (dropHold s .tuner0 r), dropHold_frame s]

/-- A hold of a tuner is its FIRM hold exactly when it is FIRM. -/
theorem firmHold_eq_some (s : State) (t : Tuner) (h : Hold) :
    firmHold s t = some h ↔ (s.holds.at t).hold = some h ∧ h.kind = .firm := by
  simp [firmHold, Option.filter_eq_some_iff]

theorem softHold_eq_some (s : State) (t : Tuner) (h : Hold) :
    softHold s t = some h ↔ (s.holds.at t).hold = some h ∧ h.kind = .soft := by
  simp [softHold, Option.filter_eq_some_iff]

end Sys2Proof.Machine
end

