-- ==== Sys2Proof/Tests/Slice0.lean ====
section
/-! SUPPORT. Tests: ill-formed terms that the checks refuse, frames written out byte by byte from section 12.3, one-step
tests against values worked out from the rules, and for every statement with hypotheses a state that meets them. -/

namespace Sys2Proof.Tests

open Sys2Proof Sys2Proof.Machine

/-! ### Small states -/

/-- A showing on channel 1 with event 10, from 1,000 s to 1,600 s. -/
def showA : Showing := ⟨1, some 10, 1000, 600⟩
/-- A showing on channel 2 with event 20, from 3,000 s to 3,600 s. -/
def showB : Showing := ⟨2, some 20, 3000, 600⟩

/-- A SCHEDULED manual booking of `showA`, as R12 creates it. -/
def plain : Booking :=
  { origin := .manual, link := none, isRepeat := false, primary := showA, alternative := none, episode := none,
    prePad := 60, postPad := 120, priority := 3, follow := false, runningStatus := .unknown, extensionUsed := 0,
    version := 0, state := .scheduled, finishReason := none, installed := none, heldBack := false, lateStart := false,
    clashMark := false, running := none, startStamp := none, endStamp := none, confirmTimer := none,
    closeReached := false }

/-- The placement of `plain` on tuner 0, its padded window of 940 s to 1,720 s. -/
def placement : Placement := ⟨.placed, .tuner0, 940, 1720⟩
/-- `plain` with that placement installed and current. -/
def installed : Booking := { plain with installed := some ⟨.placed placement, 0, 256, false⟩ }
/-- The running placement of `plain`, entered at 950 s. -/
def running0 : RunningPlacement := ⟨.tuner0, .mux 5, .primary, 950, 120, 1720⟩
/-- `plain` STARTING since 950 s. -/
def starting : Booking :=
  { installed with
    state := .starting, running := some running0, startStamp := some 950, confirmTimer := some ⟨7, 60⟩ }
/-- `plain` RECORDING. -/
def recording : Booking := { starting with state := .recording, confirmTimer := none }
/-- `plain` COMPLETED. -/
def completed0 : Booking := { recording with state := .completed, endStamp := some 1720 }

/-- A link of series 77 that takes channel 1. -/
def link0 : Link :=
  { seriesId := 77, preference := some 1, policy := .newOnly, status := .active, priority := 4, prePad := 30,
    postPad := 90, follow := true, keepAhead := 2, history := [], noteLimit := false, noteTableFull := false }

/-- An announcement of `showA` for series 77. -/
def news : Announcement :=
  { channel := 1, event := 10, start := 1000, duration := 600, series := some 77, episode := some 501,
    isRepeat := false, premiere := false, status := .unknown }

/-- The part after reset with small tables: two booking slots and two link slots, all free, and channels 1 and 2 on
multiplexes 5 and 6. -/
def small : State :=
  { State.reset with
    bookings := [⟨0, none⟩, ⟨0, none⟩], links := [⟨0, none⟩, ⟨0, none⟩]
    map := ⟨[⟨1, 5, 0⟩, ⟨2, 6, 1⟩], ⟨⟨true, true⟩, ⟨true, true⟩, ⟨true, true⟩, ⟨true, true⟩⟩⟩ }

/-- `small` with a booking in slot 0 under tag 1. -/
def holding (b : Booking) : State := { small with bookings := [⟨1, some b⟩, ⟨0, none⟩] }
/-- `small` with a link in slot 0 under tag 1. -/
def linked (l : Link) : State := { small with links := [⟨1, some l⟩, ⟨0, none⟩] }
/-- The clock valid at a second. -/
def atTime (s : State) (seconds : Nat) : State := { s with clock := { s.clock with valid := true, seconds := seconds } }
/-- A request in process. -/
def asking (s : State) (r : Request) : State := { s with port := { s.port with inProcess := some ⟨r, false⟩ } }
/-- The handle of slot 0 under tag 1. -/
def first : Handle := ⟨0, 1⟩

/-- The state that a command answers. -/
def after (i : Instr) (s : State) : State :=
  match exec i s with
  | .next t => t
  | .fault _ | .refused _ => s

/-- The reply that a request is answered with. -/
def replyTo (r : Request) (s : State) : Option (ReplyCode × List Byte) :=
  ((after (completionOf r) (asking s r)).port.pendingReply).map fun x => (x.code, x.results)

/-! ### WellFormed -/

theorem test_slotOutOfRange :
    ∀ i ∈ [Instr.openEvent 128, .confirmExpiry 128, .closeEvent 128, .lapseEvent 128], i.wellFormed = false := by decide

theorem test_spareIsAWholeByte : (Instr.frameEnd [] (List.replicate 8 true)).wellFormed = false := by decide

theorem test_wellFormedCommands :
    ∀ i ∈ [Instr.openEvent 127, .confirmExpiry 127, .closeEvent 127, .lapseEvent 127,
      .frameEnd [0x10#8] (List.replicate 7 true), .clearAll], i.wellFormed = true := by decide

theorem test_handleTooWide :
    ∀ h ∈ [Handle.mk 256 1, Handle.mk 0 256], ∀ r ∈ [Request.withdraw h, .readBooking h, .readLink h, .confirm h,
      .decline h, .stop h, .ackClash h, .setLinkStatus h 0, .removeLink h 0,
      .amendBooking h ⟨showA, none, 0, 0, 0, false⟩, .amendLink h ⟨1, 0, 0, 0, 0, false, 1⟩], r.wellFormed = false := by
  decide

theorem test_showingTooWide :
    ∀ v ∈ [Showing.mk 65536 none 0 60, ⟨1, some 65536, 0, 60⟩, ⟨1, none, 4294967296, 60⟩, ⟨1, none, 0, 4294967296⟩],
      v.wellFormed = false := by decide

theorem test_addBookingTooWide :
    ∀ f ∈ [AddBookingFields.mk ⟨65536, none, 0, 60⟩ none none 0 0 0 false, ⟨showA, some ⟨65536, none, 0, 60⟩, none, 0, 0, 0, false⟩,
      ⟨showA, none, some 4294967296, 0, 0, 0, false⟩, ⟨showA, none, none, 65536, 0, 0, false⟩,
      ⟨showA, none, none, 0, 65536, 0, false⟩, ⟨showA, none, none, 0, 0, 256, false⟩],
      (Request.addBooking f).wellFormed = false := by decide

theorem test_amendBookingTooWide :
    ∀ f ∈ [AmendBookingFields.mk ⟨65536, none, 0, 60⟩ none 0 0 0 false, ⟨showA, some ⟨65536, none, 0, 60⟩, 0, 0, 0, false⟩,
      ⟨showA, none, 65536, 0, 0, false⟩, ⟨showA, none, 0, 65536, 0, false⟩, ⟨showA, none, 0, 0, 256, false⟩],
      (Request.amendBooking first f).wellFormed = false := by decide

theorem test_listTooWide :
    ∀ f ∈ [ListFields.mk 1#8 (some 256) none 0, ⟨1#8, none, some ⟨256, 1⟩, 0⟩, ⟨1#8, none, none, 256⟩],
      (Request.list f).wellFormed = false := by decide

theorem test_linkFieldsTooWide :
    ∀ f ∈ [LinkFields.mk 65536 0 0 0 0 false 1, ⟨1, 256, 0, 0, 0, false, 1⟩, ⟨1, 0, 256, 0, 0, false, 1⟩,
      ⟨1, 0, 0, 65536, 0, false, 1⟩, ⟨1, 0, 0, 0, 65536, false, 1⟩, ⟨1, 0, 0, 0, 0, false, 256⟩],
      (Request.addLink 1 none f).wellFormed = false ∧ (Request.amendLink first f).wellFormed = false := by decide

theorem test_announceTooWide :
    ∀ f ∈ [AnnounceFields.mk 65536 none 0 60 none none false false 0, ⟨1, some 65536, 0, 60, none, none, false, false, 0⟩,
      ⟨1, none, 4294967296, 60, none, none, false, false, 0⟩, ⟨1, none, 0, 4294967296, none, none, false, false, 0⟩,
      ⟨1, none, 0, 60, some 4294967296, none, false, false, 0⟩, ⟨1, none, 0, 60, none, some 4294967296, false, false, 0⟩,
      ⟨1, none, 0, 60, none, none, false, false, 256⟩], (Request.announce f).wellFormed = false := by decide

theorem test_policyTooWide :
    ∀ f ∈ [PolicyFields.mk 32768 0 0 0 3 0 0 60 255 0, ⟨0, -32769, 0, 0, 3, 0, 0, 60, 255, 0⟩, ⟨0, 0, 32768, 0, 3, 0, 0, 60, 255, 0⟩,
      ⟨0, 0, 0, -32769, 3, 0, 0, 60, 255, 0⟩, ⟨0, 0, 0, 0, 256, 0, 0, 60, 255, 0⟩, ⟨0, 0, 0, 0, 3, 65536, 0, 60, 255, 0⟩,
      ⟨0, 0, 0, 0, 3, 0, 65536, 60, 255, 0⟩, ⟨0, 0, 0, 0, 3, 0, 0, 65536, 255, 0⟩, ⟨0, 0, 0, 0, 3, 0, 0, 60, 256, 0⟩,
      ⟨0, 0, 0, 0, 3, 0, 0, 60, 255, 256⟩], (Request.setPolicy f).wellFormed = false := by decide

theorem test_routingTooWide :
    ∀ r ∈ [PerCause.mk 256 0 0 0 0 0, ⟨0, 256, 0, 0, 0, 0⟩, ⟨0, 0, 256, 0, 0, 0⟩, ⟨0, 0, 0, 256, 0, 0⟩,
      ⟨0, 0, 0, 0, 256, 0⟩, ⟨0, 0, 0, 0, 0, 256⟩], (Request.setRouting r).wellFormed = false := by decide

theorem test_numbersTooWide :
    ∀ r ∈ [Request.find 65536 0, .find 0 65536, .setChannel 65536 0 0, .setChannel 0 65536 0, .setChannel 0 0 256,
      .removeChannel 65536, .readChannel 65536, .setBand 256 0, .setBand 0 256, .hold 256 0 0, .hold 0 65536 0,
      .hold 0 0 256, .release 256, .addLink 4294967296 none ⟨1, 0, 0, 0, 0, false, 1⟩,
      .addLink 1 (some 256) ⟨1, 0, 0, 0, 0, false, 1⟩, .setLinkStatus first 256, .removeLink first 256,
      .listLinks 1#8 false 256, .readPlan 256 0, .readPlan 0 4294967296, .setTime 4294967296 0 0, .setTime 0 256 0,
      .setTime 0 0 256, .setTrim 32768, .setTrim (-32769)], r.wellFormed = false := by decide

/-! ### Frames, written out from section 12.3 -/

theorem test_decodeAddBooking :
    decodeRequest 0x10#8
      ([0x06#8] ++ [0x01#8, 0x00#8, 0x01#8, 0x00#8, 0x0A#8, 0x00#8, 0x00#8, 0x03#8, 0xE8#8, 0x00#8, 0x00#8, 0x02#8, 0x58#8] ++
        [0x01#8, 0x12#8, 0x34#8, 0x56#8, 0x78#8, 0xFF#8, 0xFF#8, 0xFF#8, 0xFF#8, 0xFF#8, 0xFF#8, 0xFF#8, 0xFF#8] ++
        [0x00#8, 0x00#8, 0x01#8, 0xF5#8, 0x00#8, 0x3C#8, 0x00#8, 0x78#8, 0x03#8]) =
      some (.addBooking ⟨showA, none, some 501, 60, 120, 3, true⟩) := by decide

theorem test_decodeAmendBooking :
    decodeRequest 0x11#8
      ([0x00#8, 0x01#8, 0x05#8] ++
        [0x01#8, 0x00#8, 0x01#8, 0x00#8, 0x0A#8, 0x00#8, 0x00#8, 0x03#8, 0xE8#8, 0x00#8, 0x00#8, 0x02#8, 0x58#8] ++
        [0x01#8, 0x00#8, 0x02#8, 0x00#8, 0x14#8, 0x00#8, 0x00#8, 0x0B#8, 0xB8#8, 0x00#8, 0x00#8, 0x02#8, 0x58#8] ++
        [0x00#8, 0x3C#8, 0x00#8, 0x78#8, 0x03#8]) =
      some (.amendBooking first ⟨showA, some showB, 60, 120, 3, true⟩) := by decide

theorem test_decodeList :
    decodeRequest 0x14#8 [0x7F#8, 0x02#8, 0x09#8, 0x00#8, 0x01#8, 0x10#8] =
      some (.list ⟨0x7F#8, none, some first, 16⟩) := by decide

theorem test_decodeSetChannel :
    decodeRequest 0x20#8 [0x27#8, 0x0F#8, 0x0F#8, 0xFF#8, 0x03#8] = some (.setChannel 9999 4095 3) := by decide

theorem test_decodeHold :
    decodeRequest 0x28#8 [0x01#8, 0x00#8, 0x02#8, 0x01#8] = some (.hold 1 2 1) := by decide

theorem test_decodeAddLink :
    decodeRequest 0x30#8
      [0x03#8, 0x00#8, 0x00#8, 0x00#8, 0x4D#8, 0xFF#8, 0xFF#8, 0x01#8, 0x01#8, 0x04#8, 0x00#8, 0x1E#8, 0x00#8, 0x5A#8,
        0x02#8] =
      some (.addLink 77 (some 1) ⟨65535, 1, 4, 30, 90, true, 2⟩) := by decide

theorem test_decodeAmendLink :
    decodeRequest 0x31#8
      [0x00#8, 0x01#8, 0x01#8, 0x00#8, 0x01#8, 0x00#8, 0x04#8, 0x00#8, 0x1E#8, 0x00#8, 0x5A#8, 0x02#8] =
      some (.amendLink first ⟨1, 0, 4, 30, 90, true, 2⟩) := by decide

theorem test_decodeAnnounce :
    decodeRequest 0x38#8
      ([0x17#8, 0x00#8, 0x01#8, 0x00#8, 0x0A#8, 0x00#8, 0x00#8, 0x03#8, 0xE8#8, 0x00#8, 0x00#8, 0x02#8, 0x58#8] ++
        [0x00#8, 0x00#8, 0x00#8, 0x4D#8, 0x00#8, 0x00#8, 0x01#8, 0xF5#8, 0x02#8]) =
      some (.announce ⟨1, some 10, 1000, 600, some 77, some 501, false, true, 2⟩) := by decide

theorem test_decodeReadPlan :
    decodeRequest 0x42#8 [0x01#8, 0x00#8, 0x01#8, 0x00#8, 0x00#8] = some (.readPlan 1 65536) := by decide

theorem test_decodeConfirm : decodeRequest 0x48#8 [0x7F#8, 0xFF#8] = some (.confirm ⟨127, 255⟩) := by decide

theorem test_decodeSetTime :
    decodeRequest 0x50#8 [0x80#8, 0x00#8, 0x00#8, 0x01#8, 0x3F#8, 0x01#8] = some (.setTime 2147483649 63 1) := by decide

theorem test_decodeSetTrim : decodeRequest 0x51#8 [0xFF#8, 0x00#8] = some (.setTrim (-256)) := by decide

theorem test_decodeSetPolicy :
    decodeRequest 0x58#8
      ([0x00#8, 0x40#8, 0x00#8, 0x20#8, 0xFF#8, 0xD0#8, 0x00#8, 0x00#8, 0x03#8, 0x00#8, 0xB4#8, 0x00#8, 0x3C#8] ++
        [0x00#8, 0x3C#8, 0xFF#8, 0x01#8]) =
      some (.setPolicy ⟨64, 32, -48, 0, 3, 180, 60, 60, 255, 1⟩) := by decide

theorem test_decodeSetRouting :
    decodeRequest 0x61#8 [0x02#8, 0x01#8, 0x00#8, 0x01#8, 0x02#8, 0x00#8] =
      some (.setRouting ⟨2, 1, 0, 1, 2, 0⟩) := by decide

theorem test_encodeDecodes :
    ∀ r ∈ [Request.addBooking ⟨showA, some showB, some 501, 60, 120, 3, true⟩, .list ⟨0x81#8, some 1, some first, 255⟩,
      .setTrim (-32768), .announce ⟨1, none, 0, 60, none, some 7, true, false, 1⟩, .clearAll],
      decodeRequest (kindOf r) (encodeRequest r) = some r := by decide

/-! ### One step, against values worked out from the rules -/

/-- `small` with a hold on tuner 0 of channel 1. -/
def held (k : HoldKind) : State :=
  { small with holds := ⟨⟨some ⟨k, 1, .mux 5, none⟩, .noDrop⟩, ⟨none, .noDrop⟩⟩ }
/-- `small` with a reply pending. -/
def replying : State := { small with port := { small.port with pendingReply := some ⟨0x29#8, .ok, [0x02#8]⟩ } }
/-- SS low, in a transaction that began in a state. -/
def inFrame (s : State) : State := after .transactionStart s
/-- `holding plain` with its one booking to be placed by a pass in progress at second 800. -/
def sweeping : State := after .step0 (markStale (atTime (holding plain) 800))
/-- `linked link0` with an announcement queued. -/
def announced (a : Announcement) : State := { linked link0 with queue := [a] }

theorem test_powerOnReset : statusOctet (after .powerOnReset (holding recording)) = 0x20#8 := by decide

theorem test_portReset :
    (after .portReset (held .firm)).holds.on0 = ⟨none, .portReset⟩ ∧
      (after .portReset (held .firm)).planner.stale = true ∧
      (after .portReset (inFrame replying)).port.phase = .cutOff := by decide

theorem test_portresetFall : (after .portresetFall (after .portReset small)).port.portReset = false := by decide

/-- The open point 940 less the wake lead 180 is 760. -/
theorem test_hostawakeChange :
    (after (.hostawakeChange false) (atTime (holding installed) 760)).out.wake = true ∧
      (after (.hostawakeChange false) (atTime (holding installed) 759)).out.wake = false ∧
      (after (.hostawakeChange true) (atTime (holding installed) 760)).out.wake = false := by decide

/-- REPLY_PENDING and ATTENTION: 0x60. -/
theorem test_transactionStart :
    (inFrame replying).port.phase = .transaction ⟨0x60#8, some ⟨0x29#8, .ok, [0x02#8]⟩, false⟩ := by decide

theorem test_frameEnd_handsOn :
    (after (.frameEnd [0x12#8, 0x02#8, 0x00#8, 0x01#8, 0xFF#8] [true]) (inFrame small)).port.inProcess =
      some ⟨.withdraw first, false⟩ := by decide

/-- Five bytes fetch a reply of four: status octet, kind, code, length, one result. -/
theorem test_frameEnd_fetches :
    (after (.frameEnd [0x00#8, 0x00#8, 0x00#8, 0x00#8, 0x00#8] []) (inFrame replying)).port.miso =
        some [0x60#8, 0x29#8, 0x00#8, 0x01#8, 0x02#8] ∧
      (after (.frameEnd [0x00#8, 0x00#8, 0x00#8, 0x00#8, 0x00#8] []) (inFrame replying)).port.pendingReply = none ∧
      (after (.frameEnd [0x00#8, 0x00#8, 0x00#8, 0x00#8] []) (inFrame replying)).port.pendingReply.isSome = true := by
  decide

theorem test_addBooking :
    replyTo (.addBooking ⟨showA, none, none, 60, 120, 9, true⟩) small = some (.adjusted, [0x00#8, 0x01#8]) ∧
      ((bookingAt (after .addBooking (asking small (.addBooking ⟨showA, none, none, 60, 120, 9, true⟩))) 0).map
        fun b => (b.priority, b.follow, b.state)) = some (7, true, .scheduled) := by decide

/-- The core end is 1,600. -/
theorem test_addBooking_tooLate :
    replyTo (.addBooking ⟨showA, none, none, 60, 120, 3, false⟩) (atTime small 1600) = some (.tooLate, []) ∧
      replyTo (.addBooking ⟨showA, none, none, 60, 120, 3, false⟩) (atTime small 1599) = some (.ok, [0x00#8, 0x01#8]) := by
  decide

theorem test_amendBooking_raisesTheVersion :
    ((bookingAt (after .amendBooking
        (asking (holding installed) (.amendBooking first ⟨showA, none, 60, 120, 4, false⟩))) 0).map
      fun b => (b.priority, b.version)) = some (4, 1) := by decide

theorem test_amendBooking_runningPrePad :
    replyTo (.amendBooking first ⟨showA, none, 61, 120, 3, false⟩) (holding recording) = some (.wrongState, []) := by
  decide

theorem test_withdraw :
    ((after .withdraw (asking (holding plain) (.withdraw first))).bookings = [⟨1, none⟩, ⟨0, none⟩]) ∧
      ((bookingAt (after .withdraw (asking (holding recording) (.withdraw first))) 0).map
        fun b => (b.state, b.finishReason)) = some (.aborted, some .withdrawn) := by decide

/-- Offsets 47 to 59: PLACED, tuner 0, 940, 1,720, stamp 0, merit 256. -/
theorem test_readBooking :
    ((replyTo (.readBooking first) (holding installed)).map fun x => (x.2.drop 47).take 13) =
      some [0x01#8, 0x00#8, 0x00#8, 0x00#8, 0x03#8, 0xAC#8, 0x00#8, 0x00#8, 0x06#8, 0xB8#8, 0x00#8, 0x01#8, 0x00#8] := by
  decide

theorem test_list :
    replyTo (.list ⟨0x01#8, none, none, 0⟩) (holding plain) = some (.ok, [0x01#8, 0x00#8, 0x01#8, 0xFF#8]) ∧
      replyTo (.list ⟨0x80#8, none, none, 0⟩) (holding plain) = some (.badValue, []) := by decide

theorem test_find :
    replyTo (.find 1 10) (holding plain) = some (.ok, [0x00#8, 0x01#8, 0x00#8]) ∧
      replyTo (.find 1 11) (holding plain) = some (.notFound, []) := by decide

theorem test_setChannel :
    replyTo (.setChannel 3 7 2) small = some (.ok, [0x01#8]) ∧
      replyTo (.setChannel 2 7 2) small = some (.ok, [0x00#8]) ∧
      replyTo (.setChannel 0 7 2) small = some (.badValue, []) := by decide

theorem test_removeChannel :
    resolve (after .removeChannel (asking small (.removeChannel 1))) 1 = none ∧
      replyTo (.removeChannel 3) small = some (.notFound, []) := by decide

theorem test_readChannel :
    replyTo (.readChannel 2) small =
      some (.ok, [0x00#8, 0x02#8, 0x00#8, 0x06#8, 0x01#8, 0x03#8, 0x00#8, 0x02#8]) := by decide

theorem test_setBand :
    replyTo (.setBand 1 2) small = some (.ok, [0x03#8, 0x02#8, 0x03#8, 0x03#8]) ∧
      replyTo (.setBand 1 4) small = some (.badValue, []) := by decide

/-- NEW, FIRM, channel 1, MUX(5), no taken-at while the clock is invalid. -/
theorem test_hold :
    replyTo (.hold 1 1 0) small =
        some (.ok, [0x00#8, 0x00#8, 0x00#8, 0x01#8, 0x00#8, 0x05#8, 0x00#8, 0x00#8, 0x00#8, 0x00#8, 0x00#8]) ∧
      replyTo (.hold 0 2 0) (holding recording) = some (.tunerBusy, []) := by decide

theorem test_release :
    replyTo (.release 0) (held .soft) = some (.ok, [0x01#8]) ∧ replyTo (.release 1) (held .soft) = some (.ok, [0x02#8]) := by
  decide

theorem test_readHolds :
    ((replyTo .readHolds (held .firm)).map fun x => (x.2.length, x.2.take 6)) =
      some (24, [0x01#8, 0x00#8, 0x00#8, 0x01#8, 0x00#8, 0x05#8]) := by decide

theorem test_addLink :
    replyTo (.addLink 78 (some 1) ⟨65535, 1, 4, 30, 90, true, 0⟩) (linked link0) = some (.adjusted, [0x01#8, 0x01#8]) ∧
      replyTo (.addLink 77 none ⟨65535, 1, 4, 30, 90, true, 1⟩) (linked link0) = some (.duplicate, []) := by decide

theorem test_amendLink :
    ((linkAt (after .amendLink (asking (linked link0) (.amendLink first ⟨65535, 1, 9, 30, 90, true, 9⟩))) 0).map
      fun l => (l.preference, l.policy, l.priority, l.keepAhead)) = some (none, .all, 7, 8) := by decide

theorem test_setLinkStatus :
    replyTo (.setLinkStatus first 1) (linked link0) = some (.ok, [0x00#8]) ∧
      replyTo (.setLinkStatus first 2) (linked link0) = some (.badValue, []) := by decide

/-- `linked link0` with a SCHEDULED and a RECORDING booking of the link. -/
def linkBookings : State :=
  { linked link0 with
    bookings := [⟨1, some { plain with link := some first }⟩, ⟨1, some { recording with link := some first }⟩] }

theorem test_removeLinkKeep :
    replyTo (.removeLink first 0) linkBookings = some (.ok, [0x02#8]) ∧
      replyTo (.removeLink first 2) linkBookings = some (.badValue, []) := by decide

theorem test_removeLinkWithdraw :
    replyTo (.removeLink first 1) linkBookings = some (.ok, [0x01#8, 0x01#8]) ∧
      (bookingAt (after .removeLinkWithdraw (asking linkBookings (.removeLink first 1))) 0) = none := by decide

theorem test_readLink :
    ((replyTo (.readLink first) linkBookings).map fun x => (x.2.drop 17).take 3) = some [0x01#8, 0x02#8, 0x00#8] := by
  decide

theorem test_listLinks :
    replyTo (.listLinks 0x01#8 false 0) (linked link0) = some (.ok, [0x01#8, 0x00#8, 0x01#8, 0xFF#8]) ∧
      replyTo (.listLinks 0x01#8 true 0) (linked link0) = some (.ok, [0x00#8, 0xFF#8]) := by decide

theorem test_announce :
    replyTo (.announce ⟨1, some 10, 1000, 59, none, none, false, false, 0⟩) small = some (.adjusted, [0x01#8]) ∧
      replyTo (.announce ⟨1, none, 1000, 60, none, none, false, false, 0⟩) small = some (.badValue, []) := by decide

theorem test_matcherEvent_books :
    ((bookingAt (after .matcherEvent (announced news)) 0).map fun b => (b.origin, b.episode, b.prePad, b.priority)) =
        some (.series, some 501, 30, 4) ∧
      ((linkAt (after .matcherEvent (announced news)) 0).map fun l => l.history) = some [501] := by decide

theorem test_matcherEvent_moves :
    ((bookingAt (after .matcherEvent { holding installed with queue := [{ news with start := 1060 }] }) 0).map
      fun b => (b.primary.start, b.version)) = some (1060, 1) := by decide

theorem test_planNow : replyTo .planNow (holding plain) = some (.ok, [0x01#8, 0x00#8, 0x00#8]) := by decide

theorem test_readPlanner :
    ((replyTo .readPlanner sweeping).map fun x => x.2) =
      some ([0x01#8, 0x00#8, 0x00#8, 0x00#8, 0x00#8, 0x01#8, 0x00#8, 0x00#8, 0x03#8, 0x20#8] ++
        [0x00#8, 0x01#8, 0x00#8, 0x00#8, 0x00#8, 0x00#8]) := by decide

/-- The one item: open and close and key present, handle 0/1, 940, 1,720, MUX(5), PLACED. -/
theorem test_readPlan :
    replyTo (.readPlan 0 940) (holding installed) =
        some (.ok, [0x00#8, 0x00#8, 0x00#8, 0x00#8, 0x01#8] ++
          [0x0E#8, 0x00#8, 0x01#8, 0x00#8, 0x00#8, 0x03#8, 0xAC#8, 0x00#8, 0x00#8, 0x06#8, 0xB8#8, 0x00#8, 0x05#8, 0x01#8]) ∧
      replyTo (.readPlan 0 941) (holding installed) = some (.ok, [0x00#8, 0x00#8, 0x00#8, 0x00#8, 0x00#8]) := by decide

/-- 64 × 3 + 32 × 2 is 256. -/
theorem test_step0 :
    (sweeping.planner.pass.map fun p => p.order) = some [⟨first, 256, false⟩] ∧
      sweeping.planner.passTime = some 800 := by decide

theorem test_bookingStep :
    ((after .bookingStep sweeping).planner.pass.map fun p => p.results.map fun r => r.evaluation.verdict) =
      some [.placed placement] := by decide

theorem test_passAbandon :
    (after .passAbandon (markStale sweeping)).planner.abandoned = 1 ∧
      (after .passAbandon sweeping).planner.abandoned = 0 := by decide

theorem test_install :
    (bookingAt (after .install (after .bookingStep sweeping)) 0) = some installed ∧
      (after .install (after .bookingStep sweeping)).planner.revision = 1 := by decide

theorem test_confirm :
    (after .confirm (asking (holding starting) (.confirm first))).out.rec0 = true ∧
      replyTo (.confirm first) (holding recording) = some (.wrongState, []) := by decide

theorem test_decline :
    ((bookingAt (after .decline (asking (holding starting) (.decline first))) 0).map
      fun b => (b.state, b.finishReason)) = some (.failed, some .declined) := by decide

theorem test_stop :
    replyTo (.stop first) (holding starting) = some (.ok, []) ∧
      replyTo (.stop first) (holding plain) = some (.wrongState, []) ∧
      replyTo (.stop ⟨0, 2⟩) (holding starting) = some (.staleHandle, []) := by decide

/-- The post allowance is 1,720 − 1,600 = 120, and the booking opens 10 s late. -/
theorem test_openEvent :
    ((bookingAt (after (.openEvent 0) (atTime (holding installed) 950)) 0).map
        fun b => (b.state, b.lateStart, b.running)) = some (.starting, true, some running0) ∧
      (after (.openEvent 0) (atTime (holding installed) 939)) = atTime (holding installed) 939 := by decide

/-- A FIRM hold on another key holds the booking back. -/
theorem test_openEvent_heldBack :
    ((bookingAt (after (.openEvent 0) (atTime { holding installed with
        holds := ⟨⟨some ⟨.firm, 2, .mux 6, none⟩, .noDrop⟩, ⟨none, .noDrop⟩⟩ } 950)) 0).map
      fun b => (b.state, b.heldBack)) = some (.scheduled, true) := by decide

/-- The timer was entered at 7 with a timeout of 60. -/
theorem test_confirmExpiry :
    ((bookingAt (after (.confirmExpiry 0)
        { holding starting with clock := { resetClock with elapsed := 67 } }) 0).map fun b => b.finishReason) =
        some (some .noConfirm) ∧
      ((bookingAt (after (.confirmExpiry 0)
        { holding starting with clock := { resetClock with elapsed := 66 } }) 0).map fun b => b.state) =
        some .starting := by decide

/-- An extension moves the close point from 1,720 to 2,020. -/
theorem test_closeEvent :
    ((bookingAt (after (.closeEvent 0) (atTime (holding
        { recording with follow := true, runningStatus := .running, closeReached := true }) 1720)) 0).map
        fun b => (b.state, b.extensionUsed, b.running.map fun r => r.closePoint)) =
        some (.recording, 300, some 2020) ∧
      ((bookingAt (after (.closeEvent 0) (atTime (holding { recording with closeReached := true }) 1720)) 0).map
        fun b => (b.state, b.endStamp)) = some (.completed, some 1720) := by decide

theorem test_lapseEvent :
    ((bookingAt (after (.lapseEvent 0) (atTime (holding plain) 1600)) 0).map fun b => b.state) = some .missed ∧
      ((bookingAt (after (.lapseEvent 0) (atTime (holding plain) 1599)) 0).map fun b => b.state) = some .scheduled := by
  decide

/-- With slew 1 the second that begins is 32,768 − 512 counts long. -/
theorem test_tick :
    (after .tick { small with clock := { resetClock with slew := 1 } }).clock =
        { resetClock with seconds := 1, elapsed := 1, slew := 1, secondSlew := 1, secondLength := 32256 } ∧
      (after .tick (atTime small 4294967295)).clock.seconds = 4294967295 := by decide

theorem test_crystalCount :
    (after .crystalCount { small with clock := { resetClock with divider := 32766 } }).clock.divider = 32767 ∧
      (after .crystalCount { small with clock := { resetClock with divider := 32767 } }).clock.tickDue = true := by decide

/-- 128 sixty-fourths is 2 s. -/
theorem test_setTime :
    replyTo (.setTime 102 0 0) (atTime small 100) = some (.ok, [0x02#8, 0x00#8, 0x00#8, 0x00#8, 0x80#8]) ∧
      replyTo (.setTime 102 1 0) (atTime small 100) = some (.ok, [0x01#8, 0x00#8, 0x00#8, 0x00#8, 0x81#8]) ∧
      replyTo (.setTime 102 64 0) small = some (.badValue, []) := by decide

theorem test_setTrim :
    replyTo (.setTrim (-257)) small = some (.adjusted, [0xFF#8, 0x00#8]) ∧
      replyTo (.setTrim 255) small = some (.ok, [0x00#8, 0xFF#8]) := by decide

theorem test_readClock :
    replyTo .readClock (atTime small 65536) =
      some (.ok, [0x01#8, 0x00#8, 0x01#8, 0x00#8, 0x00#8, 0x00#8, 0x00#8, 0x00#8, 0x00#8, 0x00#8, 0x00#8, 0x00#8, 0x00#8,
        0x00#8, 0x00#8]) := by decide

theorem test_setPolicy :
    replyTo (.setPolicy ⟨128, 0, 0, 0, 3, 180, 60, 60, 255, 0⟩) small = some (.badValue, []) ∧
      (after .setPolicy (asking small (.setPolicy ⟨127, 0, 0, 0, 4, 180, 60, 60, 3, 1⟩))).policy =
        ⟨127, 0, 0, 0, 3, 180, 60, 60, some 3, .deferred⟩ := by decide

theorem test_readPolicy :
    replyTo .readPolicy small =
      some (.ok, [0x00#8, 0x40#8, 0x00#8, 0x20#8, 0xFF#8, 0xD0#8, 0x00#8, 0x00#8, 0x03#8, 0x00#8, 0xB4#8, 0x00#8, 0x3C#8,
        0x00#8, 0x3C#8, 0xFF#8, 0x00#8]) := by decide

theorem test_readCauses :
    ((replyTo .readCauses (after (.hostawakeChange true) (holding starting))).map fun x => x.2) =
      some ([0x01#8, 0x02#8, 0x00#8, 0x01#8, 0x00#8, 0x01#8, 0x00#8, 0x01#8, 0x01#8, 0x01#8, 0x00#8, 0x01#8] ++
        [0x01#8, 0x00#8, 0x00#8, 0x00#8, 0x01#8, 0x01#8]) := by decide

theorem test_setRouting :
    (after .setRouting (asking small (.setRouting ⟨0, 0, 0, 0, 0, 0⟩))).out.attn = false ∧
      replyTo (.setRouting ⟨0, 0, 0, 0, 0, 3⟩) small = some (.badValue, []) := by decide

theorem test_ackClash :
    replyTo (.ackClash first) (holding { plain with clashMark := true }) = some (.ok, [0x01#8, 0x00#8]) ∧
      replyTo (.ackClash first) (holding plain) = some (.ok, [0x00#8, 0x00#8]) := by decide

theorem test_clearAll :
    (after .clearAll (asking linkBookings .clearAll)).bookings = [⟨1, none⟩, ⟨1, none⟩] ∧
      (after .clearAll (asking linkBookings .clearAll)).planner.revision = 1 := by decide

/-! ### Chapter 11: the clash of section 11.2 -/

/-- The bookings K, M, N and P of section 11.2, in seconds after 17:00:00. -/
def evening : State :=
  { small with
    bookings :=
      [⟨1, some { plain with primary := ⟨101, none, 10800, 3600⟩, prePad := 120, postPad := 300, priority := 4 }⟩,
        ⟨1, some { plain with primary := ⟨300, none, 12600, 3600⟩, prePad := 300, postPad := 600, priority := 3 }⟩,
        ⟨1, some { plain with primary := ⟨400, none, 15900, 3900⟩, prePad := 1800, postPad := 300, priority := 2 }⟩,
        ⟨1, some { plain with primary := ⟨204, none, 13500, 1800⟩, alternative := some ⟨219, none, 23400, 1800⟩,
                              prePad := 0, postPad := 0, priority := 3 }⟩] }

theorem test_placementOrder :
    (placementOrder evening).map (fun e => (e.handle.slot, e.merit)) = [(0, 320), (1, 256), (3, 208), (2, 192)] := by
  decide

/-- N is TRIMMED on tuner 0 over [21:05:00, 22:35:00), with K and P on tuner 0 and M on tuner 1. -/
theorem test_trimmed :
    Board.evaluate
        ⟨[⟨.tuner0, 10680, some 14700, .mux 10⟩, ⟨.tuner1, 12300, some 16800, .mux 31⟩,
          ⟨.tuner0, 23400, some 25200, .mux 21⟩], 3, 60⟩
        { plain with primary := ⟨400, none, 15900, 3900⟩, prePad := 1800, postPad := 300 }
        (fun _ => some ⟨.mux 40, ⟨true, true⟩⟩) =
      (.placed ⟨.trimmed, .tuner0, 14700, 20100⟩, some (.mux 40)) := by decide

/-! ### States that meet the hypotheses of the statements, clause by clause -/

theorem witness_StepRunsTheFrontCommand :
    ({ small with pending := [.tick] } : State).pending = .tick :: [] ∧ small.pending = [] := ⟨rfl, rfl⟩

theorem witness_EveryRequestIsAnswered :
    Taking (asking small .readClock) .readClock false ∧
      Taking { small with port := { small.port with inProcess := some ⟨.readClock, true⟩ } } .readClock true :=
  ⟨rfl, rfl⟩

theorem witness_RequestPayloadsDecodeBack :
    ∀ r ∈ [Request.addBooking ⟨⟨65535, some 65535, 4294967295, 4294967295⟩, some ⟨0, none, 0, 0⟩, some 4294967295, 65535, 65535,
        255, true⟩, .setTrim (-32768), .setTrim 32767, .clearAll], r.wellFormed = true := by decide

theorem witness_TransactionStartFixesTheImage :
    (small.port.phase = .idle ∧ small.port.portReset = false) ∧
      ((after .portReset small).port.phase = .idle ∧ (after .portReset small).port.portReset = true) ∧
      (inFrame small).port.phase ≠ .idle := by decide

/-- MISO before, in and after a transaction whose image is the octet 0x60 and a reply of four bytes, and in one cut off. -/
theorem test_misoPin :
    misoPin replying.port.phase = .threeState ∧
      misoPin (inFrame replying).port.phase = .shifting [0x60#8, 0x29#8, 0x00#8, 0x01#8, 0x02#8] ∧
      misoPin (after (.frameEnd [] []) (inFrame replying)).port.phase = .threeState ∧
      misoPin (after .portReset (inFrame replying)).port.phase = .cutOff := by decide

theorem witness_NopFrameFetchesTheReply :
    (inFrame replying).port.phase = .transaction ⟨0x60#8, some ⟨0x29#8, .ok, [0x02#8]⟩, false⟩ ∧
      (∀ k ∈ ([] : List Byte).head?, k = 0#8) ∧ ∀ k ∈ [0x00#8, 0xFF#8].head?, k = 0#8 := by decide

/-- The hypotheses hold for every frame, so for one of each case: with BUSY set and clear. -/
theorem witness_FrameEndJudgesTheFrame (rest : List Byte) :
    (inFrame small).port.phase = .transaction ⟨0x20#8, none, false⟩ ∧
      exec (.frameEnd (List.replicate (rest.length + 1) 0#8) []) (inFrame small) =
        .next
          { inFrame small with
            port := (after (.frameEnd (List.replicate (rest.length + 1) 0#8) []) (inFrame small)).port } ∧
      (asking (inFrame small) .readClock).port.phase = .transaction ⟨0x20#8, none, false⟩ ∧
      exec (.frameEnd (List.replicate (rest.length + 1) 0#8) []) (asking (inFrame small) .readClock) =
        .next
          { asking (inFrame small) .readClock with
            port :=
              (after (.frameEnd (List.replicate (rest.length + 1) 0#8) []) (asking (inFrame small) .readClock)).port } :=
  ⟨rfl, rfl, rfl, rfl⟩

/-- SS low after a transaction was cut off, SS low since PORTRESET was high, and SS high. -/
theorem witness_framesWithoutTransaction :
    (after .portReset (inFrame replying)).port.phase = .cutOff ∧
      (after .transactionStart (after .portReset small)).port.phase = .ignored ∧ small.port.phase = .idle := by decide

/-- One frame for each case: cut short, 97 bytes declared, 96 bytes declared and not sent, an unknown kind, a wrong length,
and a frame handed on. -/
theorem witness_frameCases :
    ([] : List Byte) = [] ∧ 96 < ([0x61#8].headD 0).toNat ∧ [0x60#8].length < 1 + ([0x60#8].headD 0).toNat ∧
      kindLength 0x01#8 = none ∧ kindLength 0x12#8 = some 2 ∧ ([0x01#8, 0x00#8].headD 0).toNat ≠ 2 ∧
      ([0x02#8, 0x00#8, 0x01#8].headD 0).toNat = 2 := by decide

theorem witness_PortResetClearsThePort : (held .firm).port.portReset = false := rfl

theorem witness_LevelsFollowTheirRules :
    OutputsSettled small ∧ OutputsSettled (settle (atTime (holding installed) 900)) := ⟨by unfold OutputsSettled; decide, rfl⟩

/-! #### The Booking Table -/

/-- The fields of ADD_BOOKING for a showing. -/
def adding (v : Showing) : AddBookingFields := ⟨v, none, none, 60, 120, 3, false⟩
/-- The fields of AMEND_BOOKING for a showing. -/
def amending (v : Showing) : AmendBookingFields := ⟨v, none, 60, 120, 3, false⟩

/-- At second 1,599 the core end 1,600 lies one second ahead. -/
theorem witness_AddBookingCreatesTheRecord :
    ∀ s ∈ [asking (atTime (holding { plain with primary := showB }) 1599) (.addBooking (adding showA))],
      Taking s (.addBooking (adding showA)) false ∧ AddAccepted (adding showA) ∧ 1 < s.bookings.length ∧
        bookingAt s 1 = none ∧ (∀ i, i < 1 → (bookingAt s i).isSome = true) ∧
        ¬ DuplicateShowings s none (clampedAdd (adding showA)).primary (clampedAdd (adding showA)).alternative ∧
        (s.clock.valid = true →
          s.clock.seconds < latestCoreEnd (clampedAdd (adding showA)).primary (clampedAdd (adding showA)).alternative) := by
  unfold Taking AddAccepted ShowingAccepted DuplicateShowings PairStands
  decide

/-- One refusal of each check: values at the ends of their ranges, a full table, a duplicate, the core end at now. -/
theorem witness_BookingFieldsAreRefusedInOrder :
    (∀ f ∈ [adding { showA with channel := 0 }, adding { showA with channel := 10000 },
        adding { showA with duration := 0 }, { adding showA with episode := some 0 }],
      Taking (asking small (.addBooking f)) (.addBooking f) false ∧ ¬ AddAccepted f) ∧
    (∀ s ∈ [asking { small with bookings := [⟨1, some plain⟩] } (.addBooking (adding showA))],
      Taking s (.addBooking (adding showA)) false ∧ AddAccepted (adding showA) ∧
        ∀ sl ∈ s.bookings, sl.booking.isSome = true) ∧
    (∀ s ∈ [asking (holding plain) (.addBooking (adding showA))],
      Taking s (.addBooking (adding showA)) false ∧ (∃ sl ∈ s.bookings, sl.booking = none) ∧
        DuplicateShowings s none (clampedAdd (adding showA)).primary (clampedAdd (adding showA)).alternative) ∧
    ∀ s ∈ [asking (atTime small 1600) (.addBooking (adding showA))],
      Taking s (.addBooking (adding showA)) false ∧ (∃ sl ∈ s.bookings, sl.booking = none) ∧
        ¬ DuplicateShowings s none (clampedAdd (adding showA)).primary (clampedAdd (adding showA)).alternative ∧
        s.clock.valid = true ∧
        latestCoreEnd (clampedAdd (adding showA)).primary (clampedAdd (adding showA)).alternative ≤ s.clock.seconds := by
  unfold Taking AddAccepted ShowingAccepted DuplicateShowings PairStands
  refine ⟨?_, ?_, ?_, ?_⟩ <;> decide

/-- A booking that records its alternative showing. -/
def onAlternative : Booking :=
  { recording with alternative := some showB, running := some { running0 with used := .alternative, closePoint := 3720 } }

/-- `plain` RECORDING with follow yes and a running status that extends it. -/
def following : Booking := { recording with follow := true, runningStatus := .running }

/-- Amends refused: values at the ends of their ranges; handles; a pair that stands elsewhere; a finished booking. -/
theorem witness_amendRefusals :
    (∀ f ∈ [amending { showA with channel := 0 }, amending { showA with channel := 10000 },
        amending { showA with duration := 0 }, { amending showA with alternative := some ⟨0, none, 0, 60⟩ }],
      Taking (asking small (.amendBooking first f)) (.amendBooking first f) false ∧ ¬ AmendAccepted f) ∧
    (∀ x ∈ [(Handle.mk 128 1, ReplyCode.badValue), (⟨0, 0⟩, .badValue), (⟨127, 1⟩, .staleHandle), (first, .staleHandle)],
      Taking (asking small (.amendBooking x.1 (amending showA))) (.amendBooking x.1 (amending showA)) false ∧
        AmendAccepted (amending showA) ∧ handleRefusal small x.1 = some x.2) ∧
    (∀ s ∈ [{ small with bookings := [⟨1, some plain⟩, ⟨1, some { plain with primary := showB }⟩] }],
      NamesBooking s first plain ∧ plain.state = .scheduled ∧
        DuplicateShowings s (some first.slot) (clampedAmend .primary (amending showB)).primary
          (clampedAmend .primary (amending showB)).alternative) ∧
    NamesBooking (holding completed0) first completed0 ∧ completed0.state.isFinished = true := by
  unfold Taking AmendAccepted ShowingAccepted NamesBooking DuplicateShowings PairStands
  refine ⟨?_, ?_, ?_, ?_⟩ <;> decide

/-- Amends of a running booking that R15 refuses: another pre-pad, another start of the showing in use, and another primary
while the alternative is in use. -/
theorem witness_amendsOfRunningRefused :
    (∀ w, ¬ RunningAmend recording .primary showA w (clampedAmend .primary { amending showA with prePad := 61 })) ∧
      (∀ w, ¬ RunningAmend recording .primary showA w (clampedAmend .primary (amending { showA with start := 1001 }))) ∧
      (∀ w, ¬ RunningAmend onAlternative .alternative showB w
        (clampedAmend .alternative { amending { showA with duration := 601 } with alternative := some showB })) := by
  refine ⟨fun w h => absurd h.1 (by decide), fun w h => ?_, fun w h => absurd h.2.2.1 (by decide)⟩
  have e : (1001 : Nat) = 1000 := (congrArg Showing.start h.2.2.1).trans (congrArg Showing.start h.2.1)
  exact absurd e (by decide)

/-- A free slot of last tag 0 or 255, with and without a pass that recorded the tag after it. -/
theorem witness_TagsAndVersionsAreFresh :
    (∀ s ∈ [small, { sweeping with bookings := [⟨0, none⟩] }, { small with bookings := [⟨255, none⟩] },
        { sweeping with bookings := [⟨255, none⟩] }, { small with bookings := [⟨254, none⟩] }],
      tagAt s 0 ≤ 255 ∧ ∀ p ∈ s.planner.pass.toList, (p.order.map fun e => e.handle.slot).Nodup) ∧
      recordedByPass small ⟨0, 1⟩ = false ∧
      recordedByPass { sweeping with bookings := [⟨0, none⟩] } ⟨0, 1⟩ = true ∧
      ((stampOf installed).toList ++ seenVersions (after .bookingStep sweeping) first).length < 256 := by decide

theorem witness_AmendOfScheduledStoresTheFields :
    ∀ s ∈ [asking (holding installed) (.amendBooking first (amending showB))],
      Taking s (.amendBooking first (amending showB)) false ∧ AmendAccepted (amending showB) ∧
        NamesBooking s first installed ∧ installed.state = .scheduled ∧
        ¬ DuplicateShowings s (some first.slot) (clampedAmend .primary (amending showB)).primary
          (clampedAmend .primary (amending showB)).alternative := by
  unfold Taking AmendAccepted ShowingAccepted NamesBooking DuplicateShowings PairStands
  decide

/-- A new duration for the showing in use, primary and alternative, of a STARTING booking and of RECORDING ones with follow no,
with follow yes, and with the close event due; and no new duration. -/
theorem witness_AmendOfRunningMovesTheEnd :
    (∀ b ∈ [starting, recording, following, { recording with closeReached := true }],
      ∀ w ∈ [showA, { showA with duration := 700 }, { showA with duration := 60 }],
      ∀ s ∈ [asking (atTime (holding b) 1719) (.amendBooking first (amending w))],
      Taking s (.amendBooking first (amending w)) false ∧ AmendAccepted (amending w) ∧ NamesBooking s first b ∧
        b.state.isRunning = true ∧ b.running = some running0 ∧ showingNamed b running0.used = some showA ∧
        running0.used = .primary ∧ RunningAmend b .primary showA w (clampedAmend .primary (amending w))) ∧
    ∀ f ∈ [AmendBookingFields.mk showA (some { showB with duration := 60 }) 60 120 3 false],
      ∀ s ∈ [asking (holding onAlternative) (.amendBooking first f)],
      Taking s (.amendBooking first f) false ∧ AmendAccepted f ∧ NamesBooking s first onAlternative ∧
        onAlternative.state.isRunning = true ∧ (∃ r ∈ onAlternative.running.toList, r.used = .alternative) ∧
        showingNamed onAlternative .alternative = some showB ∧
        RunningAmend onAlternative .alternative showB { showB with duration := 60 } (clampedAmend .alternative f) := by
  unfold Taking AmendAccepted ShowingAccepted NamesBooking RunningAmend
  refine ⟨?_, ?_⟩ <;> decide

/-- At second 1,719 the close point 1,700 + 120 of 700 s lies ahead, and 1,060 + 120 of 60 s is reached; the extension check
grants to `following` and not to `recording`. -/
theorem witness_endMoves :
    reached (atTime (holding recording) 1719)
        (satAdd (coreEnd { showA with duration := 700 } + running0.postAllowance) recording.extensionUsed) = false ∧
      reached (atTime (holding recording) 1719)
        (satAdd (coreEnd { showA with duration := 60 } + running0.postAllowance) recording.extensionUsed) = true ∧
      (starting.closeReached = false ∧ starting.state = .starting) ∧
      (following.closeReached = false ∧ following.state = .recording) ∧
      Extends (atTime (holding following) 1719) 0 following running0 ∧
      ¬ Extends (atTime (holding recording) 1719) 0 recording running0 := by
  unfold Extends
  decide

/-- What the two end moves at 1,719 leave of `following` and `recording`: extended to 1,060 + 120 + 300, its close point reached
still, and completed. -/
theorem test_endMoveCloses :
    ((bookingAt (after .amendBooking (asking (atTime (holding following) 1719)
        (.amendBooking first ⟨{ showA with duration := 60 }, none, 60, 120, 3, true⟩))) 0).map
      fun b => (b.state, b.extensionUsed, b.running.map fun r => r.closePoint, b.closeReached)) =
        some (.recording, 300, some 1480, true) ∧
      ((bookingAt (after .matcherEvent
          { atTime (holding recording) 1719 with queue := [{ news with duration := 60 }] }) 0).map
        fun b => (b.state, b.endStamp)) = some (.completed, some 1719) := by decide

/-- Each running booking of those moves. -/
theorem witness_EndMoveClosesAtOnce :
    ∀ b ∈ [starting, recording, following, { recording with closeReached := true }],
      bookingAt (atTime (holding b) 1719) first.slot = some b ∧ b.state.isRunning = true ∧
        b.running = some running0 ∧ showingNamed b running0.used = some showA := by decide

theorem witness_WithdrawFreesOrAborts :
    (∀ b ∈ [plain, starting, recording, completed0], ∀ s ∈ [asking (holding b) (.withdraw first)],
      Taking s (.withdraw first) false ∧ NamesBooking s first b) ∧
    ∀ x ∈ [(Handle.mk 128 1, ReplyCode.badValue), (⟨0, 0⟩, .badValue), (⟨127, 1⟩, .staleHandle), (first, .staleHandle)],
      ∀ r ∈ [Request.withdraw x.1, .readBooking x.1],
      Taking (asking small r) r false ∧ handleRefusal (asking small r) x.1 = some x.2 := by
  unfold Taking NamesBooking
  refine ⟨?_, ?_⟩ <;> decide

/-- Channels 1 and 9,999 at the ends of the range, 0 and 10,000 beyond it. -/
theorem witness_BookingsAreReadAndFound :
    (∀ s ∈ [asking (holding plain) (.readBooking first)],
      Taking s (.readBooking first) false ∧ NamesBooking s first plain) ∧
    (∀ s ∈ [asking (holding plain) (.find 1 10)],
      Taking s (.find 1 10) false ∧ PairsUnique s ∧ (first, plain) ∈ occupied s ∧ pairNamed plain .primary = some (1, 10)) ∧
    (∀ s ∈ [asking (holding plain) (.find 9999 10)],
      Taking s (.find 9999 10) false ∧ PairsUnique s ∧ ¬ PairStands s none (some (9999, 10))) ∧
    ∀ c ∈ [0, 10000], Taking (asking small (.find c 10)) (.find c 10) false ∧ (c = 0 ∨ 9999 < c) := by
  unfold Taking NamesBooking PairsUnique PairStands
  refine ⟨?_, ?_, ?_, ?_⟩ <;> decide

theorem witness_ImagesHaveTheirLayout : ({ link0 with history := [1, 2, 3, 4, 5, 6, 7, 8] } : Link).history.length ≤ 8 := by
  decide

/-- Bookings and links that the image clauses speak of: with every optional part, and with none. -/
theorem witness_imageParts :
    (onAlternative.alternative = some showB ∧ onAlternative.installed.isSome = true ∧ onAlternative.running.isSome = true) ∧
      { plain with link := some first }.link.isSome = true ∧
      plain.link = none ∧ plain.alternative = none ∧ plain.installed = none ∧ plain.running = none ∧
      (∀ e ∈ installed.installed.toList, e.verdict.placement = some placement) ∧
      ∀ e ∈ ({ plain with installed := some ⟨.clashed, 0, -1, true⟩ } : Booking).installed.toList,
        e.verdict.placement = none := by decide

/-- Flags A are SERIES, link and follow; flags B clash, clamped, running and start stamp; a merit of −1 is 0xFFFF. -/
theorem test_imageFlags :
    (bookingImage ⟨5, 9⟩
        { recording with origin := .series, link := some first, follow := true, clashMark := true,
                         installed := some ⟨.clashed, 0, -1, true⟩ }).take 9 =
        [0x05#8, 0x09#8, 0x23#8, 0x0F#8, 0x02#8, 0x00#8, 0x00#8, 0x00#8, 0x01#8] ∧
      ((bookingImage ⟨5, 9⟩ { plain with installed := some ⟨.clashed, 0, -1, true⟩ }).drop 58).take 2 =
        [0xFF#8, 0xFF#8] := by decide

theorem witness_ListsReturnTheMatches :
    (∀ f ∈ [ListFields.mk 0x40#8 none none 127, ⟨0x01#8, some 1, some first, 0⟩],
      ∀ s ∈ [asking linkBookings (.list f)],
      Taking s (.list f) false ∧ (∃ i, i < 7 ∧ f.states.getLsbD i = true) ∧ f.start ≤ 127 ∧
        (∀ o ∈ f.origin.toList, o ≤ 1) ∧
        ∀ h ∈ f.link.toList, h.slot ≤ 31 ∧ h.tag ≠ 0 ∧ (linkOf s h).isSome = true) ∧
      Taking (asking linkBookings (.listLinks 0x02#8 true 31)) (.listLinks 0x02#8 true 31) false ∧
      ((0x02#8).getLsbD 0 = true ∨ (0x02#8).getLsbD 1 = true) := by
  unfold Taking
  decide

/-- An empty set of states, a starting slot, an origin and link handles just out of range, a link handle that is not current,
an empty set of statuses, and a starting slot of the Link Table just out of range. -/
theorem witness_listRefusals :
    (∀ f ∈ [ListFields.mk 0x80#8 none none 0, ⟨0x01#8, none, none, 128⟩, ⟨0x01#8, some 2, none, 0⟩,
        ⟨0x01#8, none, some ⟨32, 1⟩, 0⟩, ⟨0x01#8, none, some ⟨0, 0⟩, 0⟩],
      Taking (asking small (.list f)) (.list f) false ∧
        ((∀ i, i < 7 → f.states.getLsbD i = false) ∨ 127 < f.start ∨ (∃ o ∈ f.origin.toList, 1 < o) ∨
          ∃ h ∈ f.link.toList, 31 < h.slot ∨ h.tag = 0)) ∧
    (∀ f ∈ [ListFields.mk 0x40#8 (some 1) (some ⟨31, 1⟩) 127],
      Taking (asking small (.list f)) (.list f) false ∧ (∃ i, i < 7 ∧ f.states.getLsbD i = true) ∧ f.start ≤ 127 ∧
        (∀ o ∈ f.origin.toList, o ≤ 1) ∧ ∃ h ∈ f.link.toList, linkRefusal small h = some .staleHandle) ∧
    ∀ x ∈ [(0xFC#8, 0), (0x01#8, 32)],
      Taking (asking small (.listLinks x.1 false x.2)) (.listLinks x.1 false x.2) false ∧
        ((x.1.getLsbD 0 = false ∧ x.1.getLsbD 1 = false) ∨ 31 < x.2) := by
  unfold Taking
  refine ⟨?_, ?_, ?_⟩ <;> decide

/-! #### The Channel Map and the holds -/

theorem witness_ChannelsResolve :
    (small.map.entries.map fun x => x.channel).Pairwise (· < ·) ∧ (⟨2, 6, 1⟩ : ChannelEntry) ∈ small.map.entries ∧
      ∀ e ∈ small.map.entries, e.channel ≠ 3 := by decide

/-- A new entry, an entry replaced, an entry removed, and a set unchanged and changed. -/
theorem witness_MapRequestsChangeTheMap :
    (∀ c ∈ [1, 9999], ∀ s ∈ [asking small (.setChannel c 4095 (3 : Fin 4).val)],
      Taking s (.setChannel c 4095 (3 : Fin 4).val) false ∧
        ((entryOf s c).isSome = true ∨ s.map.entries.length < 256)) ∧
    (∀ s ∈ [asking small (.removeChannel 1)], Taking s (.removeChannel 1) false ∧ (entryOf s 1).isSome = true) ∧
    ∀ e ∈ [EligibleSet.mk true true, ⟨false, false⟩],
      Taking (asking small (.setBand (0 : Fin 4).val (eligibleCode e))) (.setBand (0 : Fin 4).val (eligibleCode e))
        false := by
  unfold Taking
  decide

/-- A map of 256 entries, of channels 1 to 256. -/
def fullMap : State :=
  { small with map := ⟨(List.range 256).map fun i => ⟨i + 1, 5, 0⟩, small.map.bands⟩ }

/-- Values just out of range; a new channel in a full map; a channel without an entry. -/
theorem witness_mapRefusals :
    (∀ x ∈ [(0, 1, 0), (10000, 1, 0), (1, 0, 0), (1, 4096, 0), (1, 1, 4)],
      Taking (asking small (.setChannel x.1 x.2.1 x.2.2)) (.setChannel x.1 x.2.1 x.2.2) false ∧
        (x.1 = 0 ∨ 9999 < x.1 ∨ x.2.1 = 0 ∨ 4095 < x.2.1 ∨ 3 < x.2.2)) ∧
    (∀ s ∈ [asking fullMap (.setChannel 9999 4095 3)],
      Taking s (.setChannel 9999 4095 3) false ∧ entryOf s 9999 = none ∧ 256 ≤ s.map.entries.length) ∧
    (∀ c ∈ [0, 10000], Taking (asking small (.removeChannel c)) (.removeChannel c) false ∧ (c = 0 ∨ 9999 < c)) ∧
    (∀ c ∈ [3, 9999],
      Taking (asking small (.removeChannel c)) (.removeChannel c) false ∧ entryOf small c = none) ∧
    ∀ x ∈ [(4, 3), (3, 4)],
      Taking (asking small (.setBand x.1 x.2)) (.setBand x.1 x.2) false ∧ (3 < x.1 ∨ 3 < x.2) := by
  unfold Taking
  refine ⟨?_, ?_, ?_, ?_, ?_⟩ <;> decide +kernel

/-- FIRM beside a recording on the key; SOFT in place of a SOFT hold of another key, and of the same. -/
theorem witness_HoldIsTaken :
    (∀ s ∈ [asking (holding recording) (.hold (tunerCode .tuner0) 1 (holdKindCode .firm))],
      Taking s (.hold (tunerCode .tuner0) 1 (holdKindCode .firm)) false ∧
        resolve s 1 = some ⟨.mux 5, ⟨true, true⟩⟩ ∧ (EligibleSet.mk true true).has .tuner0 = true ∧
        (∀ e ∈ runningOn s .tuner0, runningKey e.2 = some (.mux 5)) ∧ (runningOn s .tuner0).length + 1 ≤ 3) ∧
    ∀ c ∈ [1, 2], ∀ s ∈ [asking (held .soft) (.hold (tunerCode .tuner0) c (holdKindCode .soft))],
      Taking s (.hold (tunerCode .tuner0) c (holdKindCode .soft)) false ∧
        ∃ route ∈ (resolve s c).toList, route.eligible.has .tuner0 = true := by
  unfold Taking
  decide

/-- Three bookings recording on tuner 0. -/
def crowded : State :=
  { small with
    bookings := [⟨1, some recording⟩, ⟨1, some { recording with primary := showB }⟩,
      ⟨1, some { recording with primary := { showA with event := none } }⟩] }

/-- `small` with band 1 on tuner 1 alone. -/
def oneTuner : State :=
  { small with map := { small.map with bands := ⟨⟨true, true⟩, ⟨false, true⟩, ⟨true, true⟩, ⟨true, true⟩⟩ } }

/-- Values just out of range; no route; a tuner not in the order; another key; a fourth stream. -/
theorem witness_HoldRefusalsInOrder :
    (∀ x ∈ [(2, 1, 0), (0, 0, 0), (0, 10000, 0), (0, 1, 2)],
      Taking (asking small (.hold x.1 x.2.1 x.2.2)) (.hold x.1 x.2.1 x.2.2) false ∧
        (1 < x.1 ∨ x.2.1 = 0 ∨ 9999 < x.2.1 ∨ 1 < x.2.2)) ∧
    (∀ s ∈ [asking small (.hold (tunerCode .tuner0) 9999 (holdKindCode .firm))],
      Taking s (.hold (tunerCode .tuner0) 9999 (holdKindCode .firm)) false ∧ resolve s 9999 = none) ∧
    (∀ s ∈ [asking oneTuner (.hold (tunerCode .tuner0) 2 (holdKindCode .soft))],
      Taking s (.hold (tunerCode .tuner0) 2 (holdKindCode .soft)) false ∧
        resolve s 2 = some ⟨.mux 6, ⟨false, true⟩⟩ ∧ (EligibleSet.mk false true).has .tuner0 = false) ∧
    (∀ s ∈ [asking (holding recording) (.hold (tunerCode .tuner0) 2 (holdKindCode .firm))],
      Taking s (.hold (tunerCode .tuner0) 2 (holdKindCode .firm)) false ∧
        resolve s 2 = some ⟨.mux 6, ⟨true, true⟩⟩ ∧ ∃ e ∈ runningOn s .tuner0, runningKey e.2 ≠ some (.mux 6)) ∧
    ∀ s ∈ [asking crowded (.hold (tunerCode .tuner0) 1 (holdKindCode .firm))],
      Taking s (.hold (tunerCode .tuner0) 1 (holdKindCode .firm)) false ∧
        resolve s 1 = some ⟨.mux 5, ⟨true, true⟩⟩ ∧ 3 < (runningOn s .tuner0).length + 1 := by
  unfold Taking
  decide

theorem witness_ReleaseDropsTheHold :
    (∀ s ∈ [held .firm, held .soft, small],
      Taking (asking s (.release (tunerCode .tuner0))) (.release (tunerCode .tuner0)) false) ∧
    Taking (asking small (.release 2)) (.release 2) false ∧ 1 < 2 := by
  unfold Taking
  decide

/-! #### Links, announcements and the matcher -/

/-- Link fields at the ends of their ranges. -/
def linkFields : LinkFields := ⟨9999, 1, 7, 7200, 7200, false, 8⟩

theorem witness_LinkRequestsChangeOneLink :
    (∀ asked ∈ [none, some LinkStatus.dormant], ∀ f ∈ [linkFields, { linkFields with preference := 65535, policy := 0 }],
      ∀ s ∈ [asking (linked link0) (.addLink 78 (asked.map linkStatusCode) f)],
      Taking s (.addLink 78 (asked.map linkStatusCode) f) false ∧ LinkFieldsAccepted f ∧ 1 < s.links.length ∧
        linkAt s 1 = none ∧ (∀ i, i < 1 → (linkAt s i).isSome = true) ∧ ∀ e ∈ occupiedLinks s, e.2.seriesId ≠ 78) ∧
    ∀ r ∈ [Request.amendLink first linkFields, .setLinkStatus first (linkStatusCode .dormant), .readLink first],
      Taking (asking (linked link0) r) r false ∧ NamesLink (asking (linked link0) r) first link0 := by
  unfold Taking LinkFieldsAccepted NamesLink
  decide

/-- Values just out of range; a full table; a series id that stands; and link handles out of range and not current. -/
theorem witness_linkRefusals :
    (∀ f ∈ [{ linkFields with preference := 0 }, { linkFields with preference := 10000 }, { linkFields with policy := 2 }],
      ¬ LinkFieldsAccepted f ∧ Taking (asking small (.addLink 78 none f)) (.addLink 78 none f) false ∧
        Taking (asking small (.amendLink first f)) (.amendLink first f) false) ∧
    (∀ r ∈ [Request.addLink 0 none linkFields, .addLink 78 (some 2) linkFields, .setLinkStatus first 2],
      Taking (asking small r) r false) ∧
    (∀ s ∈ [{ small with links := [⟨1, some link0⟩] }], ∀ sl ∈ s.links, sl.link.isSome = true) ∧
    ((∃ sl ∈ (linked link0).links, sl.link = none) ∧
      (∃ e ∈ occupiedLinks (linked link0), e.2.seriesId = 77) ∧ LinkFieldsAccepted linkFields) ∧
    ∀ x ∈ [(Handle.mk 32 1, ReplyCode.badValue), (⟨0, 0⟩, .badValue), (⟨31, 1⟩, .staleHandle), (first, .staleHandle)],
      ∀ r ∈ [Request.amendLink x.1 linkFields, .setLinkStatus x.1 1, .readLink x.1, .removeLink x.1 0, .removeLink x.1 1],
      Taking (asking small r) r false ∧ linkRefusal (asking small r) x.1 = some x.2 := by
  unfold Taking LinkFieldsAccepted
  refine ⟨?_, ?_, ?_, ?_, ?_⟩ <;> decide

theorem witness_RemoveLinkDealsWithItsBookings :
    (∀ disposal ∈ [0, 1], ∀ s ∈ [asking linkBookings (.removeLink first disposal)],
      Taking s (.removeLink first disposal) false ∧ NamesLink s first link0) ∧
    Taking (asking linkBookings (.removeLink first 2)) (.removeLink first 2) false ∧ 1 < 2 := by
  unfold Taking NamesLink
  decide

/-- Accepted with 15 announcements queued, refused with 16, and refused for its running status. -/
theorem witness_AnnounceJoinsTheTail :
    ∀ x ∈ [(15, 2), (16, 2), (0, 3)],
      ∀ f ∈ [AnnounceFields.mk 9999 (some 10) 0 1 (some 77) none true false x.2],
      ∀ s ∈ [asking { small with queue := List.replicate x.1 news } (.announce f)],
      Taking s (.announce f) false ∧
        (((1 ≤ f.channel ∧ f.channel ≤ 9999) ∧ f.event.isSome = true ∧ f.duration ≠ 0 ∧ f.series ≠ some 0 ∧
          f.episode ≠ some 0 ∧ f.status ≤ 2) ↔ x.2 = 2) ∧ (s.queue.length < 16 ↔ x.1 ≠ 16) := by
  unfold Taking
  decide

/-- The primary and the alternative of a SCHEDULED booking announced. -/
theorem witness_MatcherMovesAScheduledShowing :
    ∀ e ∈ [(plain, ShowingUsed.primary, showA),
        ({ plain with primary := showB, alternative := some showA }, ShowingUsed.alternative, showA)],
      PairsUnique { holding e.1 with queue := [news] } ∧
        bookingAt { holding e.1 with queue := [news] } 0 = some e.1 ∧ e.1.state = .scheduled ∧
        showingNamed e.1 e.2.1 = some e.2.2 ∧ pairNamed e.1 e.2.1 = some (news.channel, news.event) := by
  unfold PairsUnique
  decide

/-- A finished booking, a running one whose other showing is announced, and running ones whose showing in use is: STARTING,
RECORDING, with follow yes, and with the close event due. The end moves are those of `witness_endMoves`. -/
theorem witness_MatcherUpdatesARunningBooking :
    (∀ e ∈ [(completed0, ShowingUsed.primary), (onAlternative, .primary), (starting, .primary), (recording, .primary),
        (following, .primary), ({ recording with closeReached := true }, .primary)],
      ∀ a ∈ [news, { news with duration := 700 }, { news with duration := 60 }],
      PairsUnique { holding e.1 with queue := [a] } ∧
        bookingAt { holding e.1 with queue := [a] } 0 = some e.1 ∧ e.1.state ≠ .scheduled ∧
        showingNamed e.1 e.2 = some showA ∧ pairNamed e.1 e.2 = some (a.channel, a.event)) ∧
      completed0.state.isFinished = true ∧ (∃ r ∈ onAlternative.running.toList, r.used ≠ .primary) ∧
      (∀ b ∈ [starting, recording, following], b.state.isRunning = true ∧ b.running = some running0) ∧
      running0.used = .primary ∧ ({ showA with duration := news.duration } : Showing) = showA ∧
      ({ showA with duration := 700 } : Showing) ≠ showA := by
  unfold PairsUnique
  refine ⟨?_, ?_⟩ <;> decide

/-- No link of the series; a DORMANT link; another channel; a showing that ended at second 1,600. -/
theorem witness_MatcherPassesOverAnnouncements :
    (∀ s ∈ [{ small with queue := [news] }, announced news, announced { news with channel := 2 },
        atTime (announced news) 1600, { announced news with links := [⟨1, some { link0 with status := .dormant }⟩] }],
      ∃ a ∈ s.queue, s.queue = [a] ∧ ¬ PairStands s none (some (a.channel, a.event)) ∧ SeriesUnique s) ∧
      (∀ e ∈ occupiedLinks small, some e.2.seriesId ≠ news.series) ∧
      (first, link0) ∈ occupiedLinks (announced news) ∧ some link0.seriesId = news.series ∧ link0.status = .active ∧
      (∃ c ∈ link0.preference.toList, c ≠ { news with channel := 2 }.channel) ∧
      ((atTime (announced news) 1600).clock.valid = true ∧
        satAdd news.start news.duration ≤ (atTime (announced news) 1600).clock.seconds) ∧ news.premiere = false := by
  unfold PairStands SeriesUnique
  decide

/-- A link with episode 501 in its history, its SCHEDULED booking of that episode on another channel, and the episode
announced again. -/
def episodeBooked : State :=
  { announced news with
    links := [⟨1, some { link0 with history := [501] }⟩]
    bookings := [⟨1, some { plain with link := some first, episode := some 501, primary := showB }⟩] }

/-- The booking there has no alternative, or has one; or there is no booking. -/
theorem witness_MatcherAttachesAnAlternative :
    ∀ s ∈ [episodeBooked, { episodeBooked with bookings := [] },
        { episodeBooked with
          bookings := [⟨1, some { plain with link := some first, episode := some 501, primary := showB,
                                             alternative := some ⟨3, none, 0, 60⟩ }⟩] }],
      s.queue = [news] ∧ ReachesStepThree s news first { link0 with history := [501] } ∧ news.episode = some 501 ∧
        501 ∈ ({ link0 with history := [501] } : Link).history ∧
        ∀ e ∈ occupied s, (e.2.state = .scheduled ∧ e.2.link = some first ∧ e.2.episode = some 501) ∧
          ∀ f ∈ occupied s, f.1.slot = e.1.slot := by
  unfold ReachesStepThree PairStands SeriesUnique
  decide

/-- An announcement of an event no booking has. -/
def fresh : Announcement := { news with event := 11 }
/-- `link0` with a full history. -/
def fullHistory : Link := { link0 with history := [1, 2, 3, 4, 5, 6, 7, 8] }
/-- A booking that records an episode of the link. -/
def episodeOf (id : Nat) : BookingSlot :=
  ⟨1, some { recording with link := some first, episode := some id, primary := { showA with event := none } }⟩
/-- A full history of live episodes, with a free slot. -/
def allLive : State :=
  { announced fresh with
    links := [⟨1, some fullHistory⟩], bookings := ([1, 2, 3, 4, 5, 6, 7, 8].map episodeOf) ++ [⟨0, none⟩] }
/-- The same, with episode 2 carried by no booking. -/
def oneDead : State :=
  { announced fresh with
    links := [⟨1, some fullHistory⟩], bookings := ([1, 3, 4, 5, 6, 7, 8].map episodeOf) ++ [⟨0, none⟩] }

/-- A repeat; the keep-ahead reached; no free slot; a full history of live episodes; and two announcements that are booked,
below a full history and with an episode that is not live. -/
theorem witness_MatcherBooksAnEpisode :
    ∀ x ∈ [(announced { news with isRepeat := true }, link0),
        ({ linkBookings with links := [⟨1, some { link0 with keepAhead := 1 }⟩], queue := [fresh] },
          { link0 with keepAhead := 1 }),
        ({ linkBookings with queue := [fresh] }, link0), (allLive, fullHistory), (announced news, link0),
        (oneDead, fullHistory)],
      ∃ a ∈ x.1.queue, x.1.queue = [a] ∧ ReachesStepThree x.1 a first x.2 ∧ ∀ id ∈ a.episode.toList, id ∉ x.2.history := by
  unfold ReachesStepThree PairStands SeriesUnique
  decide

/-- The condition of each of those cases. -/
theorem witness_bookingCases :
    ({ news with isRepeat := true }.isRepeat = true ∧ link0.policy = .newOnly) ∧
      (occupied linkBookings).countP (fun e => decide (e.2.link = some first ∧ e.2.state = .scheduled)) = 1 ∧
      (∀ sl ∈ linkBookings.bookings, sl.booking.isSome = true) ∧
      (8 ≤ fullHistory.history.length ∧
        (∀ x ∈ fullHistory.history, ∃ e ∈ occupied allLive, isLiveEpisode first x e.2 = true)) ∧
      (¬ ∀ x ∈ fullHistory.history, ∃ e ∈ occupied oneDead, isLiveEpisode first x e.2 = true) ∧
      ((linkAt (after .matcherEvent oneDead) 0).map fun l => l.history) = some [1, 3, 4, 5, 6, 7, 8, 501] := by
  decide

/-! #### Merit and the pass -/

/-- The sum of `plain` under the default weights is 256, with policy and fields in range. -/
theorem witness_MeritIsTheSaturatedSum :
    (256 : Int) = resetPolicy.w1 * plain.priority + resetPolicy.w2 * 2 + resetPolicy.w3 * 0 +
        resetPolicy.w4 * (plain.primary.duration / 60 : Nat) ∧
      PolicyWf resetPolicy ∧ FieldsWf plain := by
  unfold PolicyWf FieldsWf ShowingWf
  decide

/-- The sum saturates below and above with a duration of 86,400 s under W4 of −128 and 127. -/
theorem test_meritSaturates :
    (orderEntry { resetPolicy with w4 := -128 } first { plain with primary := { showA with duration := 86400 } }).merit =
        -32768 ∧
      (orderEntry { resetPolicy with w4 := 127 } first { plain with primary := { showA with duration := 86400 } }).clamped =
        true := by decide

/-- IDLE and stale in AUTO; SWEEPING and stale with two passes abandoned; IDLE and SWEEPING under PLAN_NOW; and the states in
which neither planner event is due. -/
theorem witness_PassBeginsWithStepZero :
    ((markStale small).planner.pass = none ∧ (markStale small).policy.mode = .auto ∧
        (markStale small).planner.stale = true) ∧
      small.planner.stale = false ∧
      (∀ s ∈ [{ sweeping with planner := { sweeping.planner with stale := true, abandoned := 2 } }],
        s.planner.pass.isSome = true ∧ Abandoning s) ∧
      (∀ s ∈ [{ sweeping with planner := { sweeping.planner with stale := true, abandoned := 3 } }], ¬ Abandoning s) ∧
      (Taking (asking small .planNow) .planNow false ∧ (asking small .planNow).planner.pass = none) ∧
      Taking (asking sweeping .planNow) .planNow false ∧ (asking sweeping .planNow).planner.pass.isSome = true := by
  unfold Abandoning Taking
  decide

/-- A handle that is SCHEDULED, running, finished, and not current. -/
theorem witness_BookingStepTakesOneEntry :
    ∀ b ∈ [some plain, some recording, some completed0, none],
      ∀ s ∈ [{ sweeping with bookings := [⟨1, b⟩] }],
      ∃ p ∈ s.planner.pass.toList, ¬ Abandoning s ∧ s.planner.stepsDone < s.planner.stepsTotal ∧
        p.order[s.planner.stepsDone]? = some ⟨first, 256, false⟩ ∧ bookingOf s first = b := by
  unfold Abandoning
  decide

/-- An empty range and one of a second. -/
theorem witness_TrimKeepsTheMost : (7 : Nat) ≤ 7 ∧ (7 : Nat) ≤ 8 := by decide

/-- An empty board, and one with another key from second 1,000 to second 1,600 on both tuners. -/
def emptyBoard : Board := ⟨[], 3, 0⟩
def fullBoard : Board := ⟨[⟨.tuner0, 1000, some 1600, .mux 9⟩, ⟨.tuner1, 1000, some 1600, .mux 9⟩], 3, 0⟩

/-- Each outcome of a showing: no tuner, an empty window, full, not fitted, trimmed; the two that stand where an occupant of
the key steers the order; and each outcome of a booking with an alternative. -/
theorem witness_EvaluationFollowsTheTable :
    (EligibleSet.mk false false).order = [] ∧
      (triedShowing 1720 showA 60 120 ⟨.mux 5, ⟨true, true⟩⟩).paddedClose ≤
        (triedShowing 1720 showA 60 120 ⟨.mux 5, ⟨true, true⟩⟩).paddedOpen ∧
      emptyBoard.tryShowing showA 60 120 (some ⟨.mux 5, ⟨true, true⟩⟩) = .placed true .tuner0 940 1720 (.mux 5) ∧
      fullBoard.tryShowing showA 60 120 (some ⟨.mux 5, ⟨true, true⟩⟩) = .notFitted ∧
      fullBoard.tryShowing ⟨1, none, 1600, 600⟩ 60 120 (some ⟨.mux 5, ⟨true, true⟩⟩) =
        .placed false .tuner0 1600 2320 (.mux 5) ∧
      Board.tunerOrder ⟨[⟨.tuner1, 1000, some 1600, .mux 5⟩], 3, 0⟩
        (triedShowing 0 showA 60 120 ⟨.mux 5, ⟨true, true⟩⟩) = [.tuner1, .tuner0] ∧
      (emptyBoard.evaluate { plain with alternative := some showB } fun c =>
        if c = 1 then none else some ⟨.mux 6, ⟨true, true⟩⟩) = (.placed ⟨.onAlternative, .tuner0, 2940, 3720⟩, some (.mux 6)) ∧
      (fullBoard.evaluate plain fun _ => some ⟨.mux 5, ⟨true, true⟩⟩) = (.clashed, none) ∧
      (emptyBoard.evaluate plain fun _ => none) = (.unreachable, none) ∧
      (Board.evaluate ⟨[], 3, 1720⟩ plain fun _ => some ⟨.mux 5, ⟨true, true⟩⟩) = (.lapsed, none) := by decide

/-- At the top of station time, with the clock invalid (pass time 0): LAPSED with pre-pad 0, and placed with pre-pad 1
(log entry 25). -/
theorem test_topOfTimeLapses :
    emptyBoard.tryShowing ⟨1, none, 4294967295, 600⟩ 0 120 (some ⟨.mux 5, ⟨true, true⟩⟩) = .lapsed ∧
      emptyBoard.tryShowing ⟨1, none, 4294967295, 600⟩ 1 120 (some ⟨.mux 5, ⟨true, true⟩⟩) =
        .placed true .tuner0 4294967294 4294967295 (.mux 5) := by decide

/-- A SCHEDULED booking with a result, one that runs by then, and one without a result. -/
theorem witness_InstallWritesTheResults :
    ∀ s ∈ [after .bookingStep sweeping,
        { after .bookingStep sweeping with bookings := [⟨1, some starting⟩, ⟨1, some { plain with primary := showB }⟩] }],
      ∃ p ∈ s.planner.pass.toList, ¬ Abandoning s ∧ s.planner.stepsTotal ≤ s.planner.stepsDone ∧
        (∃ q ∈ p.results, q.handle = ⟨0, 1⟩ ∧ (∀ q' ∈ p.results, q'.handle = ⟨0, 1⟩ → q' = q)) ∧
        ∀ q ∈ p.results, q.handle ≠ ⟨1, 1⟩ := by
  unfold Abandoning
  decide

theorem witness_PlanListsTheTuner :
    Taking (asking (holding installed) (.readPlan (tunerCode .tuner0) 940)) (.readPlan (tunerCode .tuner0) 940) false ∧
      Taking (asking small (.readPlan 2 0)) (.readPlan 2 0) false ∧ 1 < 2 := by
  unfold Taking
  decide

/-- Tuner 1 carries the key of the showing, in the order before tuner 0; both carry it, and neither does, in the order of
their numbers. -/
theorem test_tunerOrder :
    ∀ x ∈ [([⟨.tuner1, 1000, some 1600, .mux 5⟩], [Tuner.tuner1, .tuner0]),
        ([⟨.tuner1, 1000, some 1600, .mux 5⟩, ⟨.tuner0, 1700, none, .mux 5⟩], [.tuner0, .tuner1]),
        ([(⟨.tuner1, 1720, some 1800, .mux 5⟩ : Occupant)], [.tuner0, .tuner1])],
      Board.tunerOrder ⟨x.1, 3, 0⟩ (triedShowing 0 showA 60 120 ⟨.mux 5, ⟨true, true⟩⟩) = x.2 := by decide

/-! #### The Window Timer -/

/-- Nothing due at second 939 and none for a free slot; due at second 940, with and without the open check passing. -/
theorem witness_OpenEventStartsOrHoldsBack :
    (∀ s ∈ [atTime (holding installed) 939],
      bookingAt s 0 = some installed ∧ currentPlacement installed = some placement ∧ reached s placement.openAt = false ∧
        bookingAt s 1 = none) ∧
    (∀ s ∈ [atTime (holding installed) 940, atTime { holding installed with map := ⟨[], small.map.bands⟩ } 940],
      bookingAt s 0 = some installed ∧ currentPlacement installed = some placement ∧ installed.heldBack = false ∧
        reached s (lapsePoint installed) = false ∧ reached s placement.openAt = true) ∧
    OpensUnder (atTime (holding installed) 940) 0 installed placement showA ⟨.mux 5, ⟨true, true⟩⟩ ∧
    resolve (atTime { holding installed with map := ⟨[], small.map.bands⟩ } 940) 1 = none := by
  unfold OpensUnder
  refine ⟨?_, ?_, ?_, ?_⟩ <;> decide

/-- A SOFT hold stands against the booking on another key, and with one stream beside it under a limit of 2. -/
theorem witness_StandsAgainst :
    StandsAgainst (held .soft) 0 .tuner0 (.mux 6) ⟨.soft, 1, .mux 5, none⟩ ∧
      ¬ StandsAgainst { held .soft with policy := { resetPolicy with streamLimit := 2 } } 0 .tuner0 (.mux 5)
        ⟨.soft, 1, .mux 5, none⟩ ∧
      StandsAgainst { held .soft with policy := { resetPolicy with streamLimit := 1 } } 0 .tuner0 (.mux 5)
        ⟨.soft, 1, .mux 5, none⟩ := by
  unfold StandsAgainst
  decide

/-- `plain` FAILED for want of a confirmation. -/
def failed0 : Booking :=
  { starting with state := .failed, finishReason := some .noConfirm, endStamp := some 1010, confirmTimer := none }

theorem witness_ConfirmDeclineAndStop :
    (∀ r ∈ [Request.confirm first, .decline first, .stop first], ∀ b ∈ [starting, recording, failed0, plain],
      ∀ s ∈ [asking (holding b) r], Taking s r false ∧ NamesBooking s first b) ∧
      handleRefusal small ⟨128, 1⟩ = some .badValue ∧ handleRefusal small ⟨127, 1⟩ = some .staleHandle ∧
      handleRefusal small ⟨0, 0⟩ = some .badValue := by
  unfold Taking NamesBooking
  decide

/-- 60 ticks after its entry at 7, over the wrap of the count too; a close point reached; the core end 1,600 reached. -/
theorem witness_TimerEventsFinishOrExtend :
    (starting.state = .starting ∧ ∃ timer ∈ starting.confirmTimer.toList,
        timer.timeout ≤ (67 + 4294967296 - timer.entry) % 4294967296) ∧
      (∀ timer ∈ starting.confirmTimer.toList, (66 + 4294967296 - timer.entry) % 4294967296 < timer.timeout) ∧
      (10 : Nat) ≤ (9 + 4294967296 - 4294967295) % 4294967296 ∧
      bookingAt (holding { starting with closeReached := true }) 0 = some { starting with closeReached := true } ∧
      reached (atTime (holding plain) 1600) (lapsePoint plain) = true ∧
      reached (atTime (holding plain) 1599) (lapsePoint plain) = false ∧
      recording.running = some running0 ∧ showingNamed recording running0.used = some showA ∧
      Extends small 0 { recording with follow := true, runningStatus := .running, extensionUsed := 3300 } running0 ∧
      ¬ Extends small 0 { recording with follow := true, runningStatus := .running, extensionUsed := 3600 } running0 := by
  unfold Extends
  decide

/-! #### Clock, settings and resets -/

theorem witness_TicksAdvanceTheClock :
    (small.clock.tickDue = false ∧ small.clock.divider + 1 < small.clock.secondLength) ∧
      (∀ c ∈ [{ resetClock with divider := 32766 }], c.divider + 1 < c.secondLength) ∧
      (∀ c ∈ [{ resetClock with divider := 32767 }], c.tickDue = false ∧ c.secondLength ≤ c.divider + 1) ∧
      (after .crystalCount { small with clock := { resetClock with divider := 32767 } }).clock.tickDue = true ∧
      someTimerEventDue (atTime (holding installed) 940) = true ∧
      someTimerEventDue (atTime (holding installed) 939) = false := by decide

/-- D of ±128 and ±129 sixty-fourths at second 100; an invalid clock; force; 63 and 64 sixty-fourths; force 2. -/
theorem witness_SetTimeStepsOrSlews :
    (∀ x ∈ [(102, 0, 128), (98, 0, -128), (102, 1, 129), (97, 63, -129)],
      ∀ r ∈ [Request.setTime x.1 x.2.1 (boolCode false)], ∀ s ∈ [asking (atTime small 100) r],
      Taking s r false ∧ s.clock.valid = true ∧ x.2.1 ≤ 63 ∧
        (x.2.2 : Int) =
          ((64 * x.1 + x.2.1 : Nat) : Int) - ((64 * s.clock.seconds + min 63 (s.clock.divider / 512) : Nat) : Int)) ∧
      small.clock.valid = false ∧
      (∀ r ∈ [Request.setTime 0 63 (boolCode true), .setTime 0 64 0, .setTime 0 0 2], Taking (asking small r) r false) := by
  unfold Taking
  decide

theorem witness_ReadsAnswerTheState :
    (∀ c ∈ [0, 1, 3, 9999, 10000], Taking (asking small (.readChannel c)) (.readChannel c) false) ∧
      (∀ r ∈ [Request.readHolds, .readPlanner, .readPolicy, .readCauses, .readClock], Taking (asking small r) r false) ∧
      (∀ e ∈ small.map.entries, e.channel ≠ 9999) ∧ (small.map.entries.map fun e => e.channel).Pairwise (· < ·) ∧
      (⟨1, 5, 0⟩ : ChannelEntry) ∈ small.map.entries := by
  unfold Taking
  decide

/-- Values at the ends of their ranges and just beyond them. -/
theorem witness_SettingsAreStored :
    (∀ f ∈ [PolicyFields.mk (-128) 127 0 0 0 1801 601 9 3 1, ⟨0, 0, 0, 0, 4, 1800, 600, 256, 255, 0⟩],
      Taking (asking small (.setPolicy f)) (.setPolicy f) false ∧
        (∀ w ∈ [f.w1, f.w2, f.w3, f.w4], -128 ≤ w ∧ w ≤ 127) ∧ (f.defaultBand ≤ 3 ∨ f.defaultBand = 255) ∧ f.mode ≤ 1) ∧
    (∀ f ∈ [PolicyFields.mk (-129) 0 0 0 3 0 0 60 255 0, ⟨0, 0, 0, 128, 3, 0, 0, 60, 255, 0⟩, ⟨0, 0, 0, 0, 3, 0, 0, 60, 4, 0⟩,
        ⟨0, 0, 0, 0, 3, 0, 0, 60, 254, 0⟩, ⟨0, 0, 0, 0, 3, 0, 0, 60, 255, 2⟩],
      Taking (asking small (.setPolicy f)) (.setPolicy f) false ∧
        ((∃ w ∈ [f.w1, f.w2, f.w3, f.w4], w < -128 ∨ 127 < w) ∨ (3 < f.defaultBand ∧ f.defaultBand ≠ 255) ∨ 1 < f.mode)) ∧
    (Taking (asking small (.setRouting ⟨2, 1, 0, 0, 0, 0⟩))
        (.setRouting ⟨routingCode .attnWake, routingCode .attn, routingCode .off, routingCode .off, routingCode .off,
          routingCode .off⟩) false ∧
      Taking (asking small (.setRouting ⟨0, 0, 0, 0, 0, 3⟩)) (.setRouting ⟨0, 0, 0, 0, 0, 3⟩) false ∧
      ∃ r ∈ PerCause.toList (⟨0, 0, 0, 0, 0, 3⟩ : PerCause Nat), 2 < r) ∧
    (∀ z ∈ [-257, -256, 255, 256], Taking (asking small (.setTrim z)) (.setTrim z) false) ∧
    (∀ b ∈ [plain, { plain with clashMark := true }], ∀ s ∈ [asking (holding b) (.ackClash first)],
      Taking s (.ackClash first) false ∧ NamesBooking s first b) ∧
    Taking (asking small (.ackClash first)) (.ackClash first) false ∧ handleRefusal small first = some .staleHandle := by
  unfold Taking NamesBooking
  refine ⟨?_, ?_, ?_, ?_, ?_, ?_⟩ <;> decide

theorem witness_ClearAllEmptiesTheTables : Taking (asking linkBookings .clearAll) .clearAll false := rfl

/-! #### The laws -/

/-- Full tables with a booking of a link to open now, another SCHEDULED, an announcement queued, a FIRM hold on its
multiplex, and the command that opens it. -/
def busy : State :=
  settle
    { State.reset with
      bookings :=
        [⟨1, some { installed with origin := .series, link := some first, episode := some 501 }⟩,
          ⟨7, some { plain with primary := showB }⟩] ++ List.replicate 126 ⟨0, none⟩
      links := ⟨1, some { link0 with history := [501] }⟩ :: List.replicate 31 ⟨0, none⟩
      queue := [fresh]
      map := small.map
      holds := ⟨⟨some ⟨.firm, 1, .mux 5, some 900⟩, .noDrop⟩, ⟨none, .released⟩⟩
      clock := { resetClock with valid := true, seconds := 950, elapsed := 950 }
      pending := [.openEvent 0] }

theorem witness_step : step busy = .next (after (.openEvent 0) { busy with pending := [] }) := rfl

theorem witness_OutputsStaySettled : OutputsSettled busy := rfl

theorem witness_StoresStayWellFormed : StoresWf busy := by
  unfold StoresWf BookingSlotsWf FieldsWf ShowingWf LinksWf LinkWf QueueWf AnnouncementWf ShowingWf MapWf
  refine ⟨?_, ?_, ?_, ?_, ?_, ?_⟩ <;> decide +kernel

theorem witness_ClockAndPlannerStayInRange :
    ClockWf busy.clock ∧ PlanningWf busy ∧ ∀ q ∈ busy.port.inProcess.toList, q.request.wellFormed = true := by
  unfold ClockWf PlanningWf PolicyWf PlannerWf PassWf
  refine ⟨?_, ?_, ?_⟩ <;> decide +kernel

theorem witness_RecordsFollowTheirStates : PresenceKept busy ∧ CountsKept busy := by
  unfold PresenceKept PresenceWf CountsKept CountsWf MeritInRange
  refine ⟨?_, ?_⟩ <;> decide

theorem witness_KeysStayUnique : KeysUnique busy ∧ LinksKept busy := by
  unfold KeysUnique PairsUnique SeriesUnique LinksKept LinksResolve EpisodesKept
  refine ⟨⟨?_, ?_⟩, ?_, ?_⟩ <;> decide

theorem witness_TunersStayLawful : TunersLawful busy ∧ PolicyWf busy.policy := by
  unfold TunersLawful streamCount PolicyWf
  refine ⟨fun t => ?_, by decide⟩
  cases t <;> decide

theorem witness_ConfirmTimersAreKept : TimersKept busy := by
  unfold TimersKept
  decide

theorem witness_WindowsStayFitted : WindowsKept busy := by
  refine ⟨witness_StoresStayWellFormed, ⟨witness_ClockAndPlannerStayInRange.2.1, ?_, ?_⟩, ?_⟩
  · unfold CurrentFits WindowFits
    decide
  · unfold ResultsFit WindowFits
    decide
  · unfold ClosePointsKept
    decide

theorem witness_BookingsKeepTheirIdentity :
    PresenceKept busy ∧ (∃ b ∈ (bookingOf busy first).toList, b.state = .scheduled) ∧
      ∃ c ∈ (bookingOf (after (.openEvent 0) busy) first).toList, c.state = .starting := by
  refine ⟨witness_RecordsFollowTheirStates.1, ?_, ?_⟩ <;> decide

end Sys2Proof.Tests
end

section
/-! PROOF. READ_BOOKING and FIND (R3, R18, R20). Each block's owner leaves the state as it stands, so that the completion
event changes the port alone; what remains is the answer, one equation per case. -/

namespace Sys2Proof.Machine

/-- A request whose owner leaves the state as it stands changes nothing but the port, and replies with the owner's answer. -/
theorem completed_of_state_eq {s : State} {x : State × Answer} (r : Request) (d : Bool) (hx : x.1 = s) :
    ∃ t, completed r d x = .next t ∧ t = { s with port := t.port } ∧
      Replied s t (kindOf r) d x.2.code x.2.results := by
  subst hx
  exact ⟨_, rfl, rfl, completeRequest_replied r d _ rfl⟩

/-! ### READ_BOOKING -/

theorem takeReadBooking_refused {s : State} {h : Handle} {c : ReplyCode} (hr : handleRefusal s h = some c) :
    takeReadBooking s h = refuse s c := by
  simp only [takeReadBooking, check_refused hr]

theorem takeReadBooking_named {s : State} {h : Handle} {b : Booking} (hn : NamesBooking s h b) :
    takeReadBooking s h = accept s false (bookingImage h b) := by
  simp only [takeReadBooking, namesBooking_check hn]

/-! ### FIND -/

/-- In every case FIND leaves the state as it stands. -/
theorem takeFind_state (s : State) (channel event : Nat) : (takeFind s channel event).1 = s := by
  unfold takeFind
  split
  · split
    · rfl
    · rfl
  · rfl

theorem takeFind_badChannel (s : State) {channel : Nat} (event : Nat) (hc : channel = 0 ∨ 9999 < channel) :
    takeFind s channel event = refuse s .badValue := by
  have hno : ¬ isChannel channel = true := by rw [isChannel_iff]; omega
  simp only [takeFind, if_neg hno]

/-- With unique pairs FIND answers the one showing that carries the pair (R7, R20). -/
theorem takeFind_found {s : State} {channel event : Nat} {e : Handle × Booking} {u : ShowingUsed}
    (hu : PairsUnique s) (hc : 1 ≤ channel ∧ channel ≤ 9999) (he : e ∈ occupied s)
    (hp : pairNamed e.2 u = some (channel, event)) :
    takeFind s channel event = accept s false (handleBytes e.1 ++ oneByte (usedCode u)) := by
  simp only [takeFind, if_pos ((isChannel_iff channel).mpr hc), findPair_spec s _ hu e he u hp]

theorem takeFind_notFound {s : State} {channel event : Nat} (hc : 1 ≤ channel ∧ channel ≤ 9999)
    (hp : ¬ PairStands s none (some (channel, event))) :
    takeFind s channel event = refuse s .notFound := by
  simp only [takeFind, if_pos ((isChannel_iff channel).mpr hc), findPair_none s _ hp]

/-- The bytes of FIND's reply: slot, tag and the showing that matched. -/
theorem findResults_eq (h : Handle) (u : ShowingUsed) :
    handleBytes h ++ oneByte (usedCode u) =
      [BitVec.ofNat 8 h.slot, BitVec.ofNat 8 h.tag, if u = .primary then 0x00#8 else 0x01#8] := by
  cases u
  · rfl
  · rfl

/-- FIND's completion event in full: the port alone changes, and the reply is the answer of `takeFind`. -/
theorem exec_find_replied {s : State} {channel event : Nat} {d : Bool} (ht : Taking s (.find channel event) d) :
    ∃ t, exec .find s = .next t ∧ t = { s with port := t.port } ∧
      Replied s t 0x15#8 d (takeFind s channel event).2.code (takeFind s channel event).2.results := by
  rw [exec_find ht]
  exact completed_of_state_eq (.find channel event) d (takeFind_state s channel event)

/-- Settles O17: READ_BOOKING by the check of its handle, FIND by the cases of its channel and of the search for the pair. -/
theorem bookingsAreReadAndFound : Obligations.BookingsAreReadAndFound := by
  refine ⟨?readRefused, ?read, ?find, ?findRefused⟩
  case readRefused =>
    intro s h d c ht hr
    exact refusedWith_of (exec_readBooking ht) (takeReadBooking_refused hr)
  case read =>
    intro s h d b ht hn
    rw [exec_readBooking ht, takeReadBooking_named hn]
    exact read_next s (.readBooking h) d false (bookingImage h b)
  case find =>
    intro s channel event d ht hu hlow hhigh
    obtain ⟨t, hexec, hframe, hreply⟩ := exec_find_replied ht
    refine ⟨t, hexec, hframe, ?_, ?_⟩
    · intro e he u _ hp
      rw [takeFind_found hu ⟨hlow, hhigh⟩ he hp, findResults_eq] at hreply
      exact hreply
    · intro hp
      rw [takeFind_notFound ⟨hlow, hhigh⟩ hp] at hreply
      exact hreply
  case findRefused =>
    intro s channel event d ht hc
    exact refusedWith_of (r := .find channel event) (exec_find ht) (takeFind_badChannel s event hc)

end Sys2Proof.Machine
end

section
/-! PROOF. Merit (R87 to R91): the weighted sum in the terms of the rules, its bounds, and what saturation keeps. -/

namespace Sys2Proof.Machine

/-! ### The factors -/

/-- The origin class as the table of R88 gives it. -/
theorem originClass_eq (b : Booking) :
    originClass b = if b.origin = .manual then 2 else if b.isRepeat then 0 else 1 := by
  unfold originClass
  cases b.origin <;> rfl

theorem originClass_bounds (b : Booking) : 0 ≤ originClass b ∧ originClass b ≤ 2 := by
  rw [originClass_eq]
  split
  · decide
  · split <;> decide

theorem secondChance_bounds (b : Booking) : 0 ≤ secondChance b ∧ secondChance b ≤ 1 := by
  unfold secondChance
  split <;> decide

/-- A primary duration in range has at most 1,440 whole minutes (R87). -/
theorem lengthMinutes_bounds {b : Booking} (hv : ShowingWf b.primary) :
    0 ≤ lengthMinutes b ∧ lengthMinutes b ≤ 1440 := by
  obtain ⟨-, ⟨-, hduration⟩, -⟩ := hv
  unfold lengthMinutes
  omega

/-! ### The exact sum -/

/-- One product of the sum: a weight in range times a factor of at most `m`. -/
theorem weighted_bounds {w f m : Int} (hw : -128 ≤ w ∧ w ≤ 127) (hf : 0 ≤ f ∧ f ≤ m) :
    -128 * m ≤ w * f ∧ w * f ≤ 127 * m := by
  obtain ⟨hw_low, hw_high⟩ := hw
  obtain ⟨hf_low, hf_high⟩ := hf
  have hlow : -128 * f ≤ w * f := mul_le_mul_of_nonneg_right hw_low hf_low
  have hhigh : w * f ≤ 127 * f := mul_le_mul_of_nonneg_right hw_high hf_low
  constructor <;> omega

/-- The factors add up to at most 7 + 2 + 1 + 1,440 = 1,450, which times -128 and 127 bounds the sum (R91). -/
theorem exactMerit_bounds {p : Policy} {b : Booking} (hp : PolicyWf p) (hb : FieldsWf b) :
    -185600 ≤ exactMerit p b ∧ exactMerit p b ≤ 184150 := by
  obtain ⟨hweights, -⟩ := hp
  obtain ⟨hprimary, -, -, -, hpriority, -⟩ := hb
  have h1 := weighted_bounds (hweights p.w1 (by simp)) (f := b.priority) (m := 7) (by omega)
  have h2 := weighted_bounds (hweights p.w2 (by simp)) (originClass_bounds b)
  have h3 := weighted_bounds (hweights p.w3 (by simp)) (secondChance_bounds b)
  have h4 := weighted_bounds (hweights p.w4 (by simp)) (lengthMinutes_bounds hprimary)
  unfold exactMerit
  omega

/-! ### Saturation -/

theorem saturateMerit_eq (z : Int) :
    saturateMerit z = if 32767 < z then 32767 else if z < -32768 then -32768 else z := by
  unfold saturateMerit
  split
  · omega
  · split <;> omega

theorem saturateMerit_inRange (z : Int) : MeritInRange (saturateMerit z) := by
  unfold MeritInRange saturateMerit
  omega

/-- Saturation changes exactly the sums that lie outside the range. -/
theorem saturateMerit_ne_iff (z : Int) : saturateMerit z ≠ z ↔ z < -32768 ∨ 32767 < z := by
  unfold saturateMerit
  omega

/-- The indicator says that saturation changed the value (R91). -/
theorem orderEntry_clamped_iff (p : Policy) (h : Handle) (b : Booking) :
    (orderEntry p h b).clamped = true ↔ saturateMerit (exactMerit p b) ≠ exactMerit p b :=
  bne_iff_ne

/-- Settles O33: the sum of the statement is `exactMerit`, whose saturation and bounds are the lemmas above. -/
theorem meritIsTheSaturatedSum : Obligations.MeritIsTheSaturatedSum := by
  intro p h b z hz
  have hexact : z = exactMerit p b := by
    rw [hz, ← originClass_eq]
    rfl
  subst hexact
  refine ⟨rfl, saturateMerit_eq _, saturateMerit_inRange _, ?clamped, exactMerit_bounds⟩
  case clamped => rw [orderEntry_clamped_iff, saturateMerit_ne_iff]

end Sys2Proof.Machine
end

section
/-! PROOF. The placement order (R92, R93). The three keys of R93 are one key in a lexicographic order, which `comesBefore`
decides; sorting by it is the library's insertion sort. No two ranks have the same key, because no two bookings share a
slot. -/

namespace Sys2Proof.Machine

/-! ### The key of the order -/

/-- The three keys of R93, smaller first: merit negated, padded start, slot. -/
def Ranked.key (x : Ranked) : ℤ ×ₗ ℕ ×ₗ ℕ := toLex (-x.entry.merit, toLex (x.padded, x.entry.handle.slot))

theorem Ranked.key_lt_iff (x y : Ranked) :
    x.key < y.key ↔ y.entry.merit < x.entry.merit ∨ (x.entry.merit = y.entry.merit ∧
      (x.padded < y.padded ∨ (x.padded = y.padded ∧ x.entry.handle.slot < y.entry.handle.slot))) := by
  simp only [Ranked.key, Prod.Lex.toLex_lt_toLex, neg_lt_neg_iff, neg_inj]

theorem comesBefore_iff (x y : Ranked) : comesBefore x y = true ↔ x.key < y.key := by
  rw [Ranked.key_lt_iff]
  unfold comesBefore
  split
  · split <;> simp [*]
  · simp [*]

/-- Keys agree only when the slots agree. -/
theorem Ranked.slot_eq_of_key_eq {x y : Ranked} (h : x.key = y.key) : x.entry.handle.slot = y.entry.handle.slot :=
  congrArg (fun k => (ofLex (ofLex k).2).2) h

/-! ### Sorting by the key -/

theorem insertRanked_eq_orderedInsert (x : Ranked) (ys : List Ranked) :
    insertRanked x ys = ys.orderedInsert (Ranked.key ⁻¹'o (· ≤ ·)) x := by
  induction ys with
  | nil => rfl
  | cons y ys ih =>
    by_cases h : y.key < x.key
    · have hnot : ¬ (Ranked.key ⁻¹'o (· ≤ ·)) x y := not_le.mpr h
      rw [insertRanked, if_pos ((comesBefore_iff y x).mpr h), List.orderedInsert_of_not_le _ _ hnot, ih]
    · have hle : (Ranked.key ⁻¹'o (· ≤ ·)) x y := not_lt.mp h
      rw [insertRanked, if_neg (mt (comesBefore_iff y x).mp h), List.orderedInsert_cons_of_le _ _ hle]

theorem sortRanked_eq_insertionSort (xs : List Ranked) :
    sortRanked xs = xs.insertionSort (Ranked.key ⁻¹'o (· ≤ ·)) := by
  induction xs with
  | nil => rfl
  | cons x xs ih => rw [sortRanked, insertRanked_eq_orderedInsert, ih, List.insertionSort_cons]

theorem sortRanked_pairwise_le (xs : List Ranked) : (sortRanked xs).Pairwise fun x y => x.key ≤ y.key := by
  rw [sortRanked_eq_insertionSort]
  exact List.pairwise_insertionSort _ xs

/-- With one rank for a slot, no key comes twice. -/
theorem sortRanked_pairwise_lt {xs : List Ranked} (hslots : (xs.map fun r => r.entry.handle.slot).Nodup) :
    (sortRanked xs).Pairwise fun x y => x.key < y.key := by
  have hsorted : ((sortRanked xs).map fun r => r.entry.handle.slot).Nodup :=
    ((sortRanked_perm xs).map _).nodup_iff.mpr hslots
  have hdistinct := List.pairwise_map.mp hsorted
  refine ((sortRanked_pairwise_le xs).and hdistinct).imp ?_
  rintro x y ⟨hle, hne⟩
  exact lt_of_le_of_ne hle fun hkey => hne (Ranked.slot_eq_of_key_eq hkey)

/-! ### The ranks of a state -/

/-- A rank names its booking, and carries the padded start of its primary. -/
theorem bookingOf_of_mem_ranked {s : State} {r : Ranked} (hr : r ∈ ranked s) :
    ∃ b, bookingOf s r.entry.handle = some b ∧ r.padded = b.primary.start - b.prePad := by
  obtain ⟨⟨h, b⟩, he, rfl⟩ := List.mem_map.mp hr
  exact ⟨b, (bookingOf_iff_occupied s h b).mpr (List.mem_of_mem_filter he), rfl⟩

/-- Two ranks compare by the merit of their entries, the padded starts of their bookings and their slots (R93). -/
theorem ranked_key_lt_iff {s : State} {x y : Ranked} {b c : Booking} (hx : x ∈ ranked s) (hy : y ∈ ranked s)
    (hb : bookingOf s x.entry.handle = some b) (hc : bookingOf s y.entry.handle = some c) :
    x.key < y.key ↔ y.entry.merit < x.entry.merit ∨ (x.entry.merit = y.entry.merit ∧
      (b.primary.start - b.prePad < c.primary.start - c.prePad ∨
        (b.primary.start - b.prePad = c.primary.start - c.prePad ∧ x.entry.handle.slot < y.entry.handle.slot))) := by
  obtain ⟨b', hb', hx_padded⟩ := bookingOf_of_mem_ranked hx
  obtain ⟨c', hc', hy_padded⟩ := bookingOf_of_mem_ranked hy
  obtain rfl : b = b' := Option.some.inj (hb.symm.trans hb')
  obtain rfl : c = c' := Option.some.inj (hc.symm.trans hc')
  rw [Ranked.key_lt_iff, hx_padded, hy_padded]

/-- The ranks have distinct slots, being those of a part of the table. -/
theorem ranked_slots_nodup (s : State) : ((ranked s).map fun r => r.entry.handle.slot).Nodup := by
  have hoccupied : ((occupied s).map fun e => e.1.slot).Nodup := (occupied_sorted s).imp Nat.ne_of_lt
  unfold ranked
  rw [List.map_map]
  exact hoccupied.sublist (List.filter_sublist.map _)

/-- The entries of the ranks are those of the SCHEDULED bookings (R92). -/
theorem ranked_entries (s : State) :
    ((ranked s).map fun r => r.entry) =
      ((occupied s).filter fun e => decide (e.2.state = .scheduled)).map fun e => orderEntry s.policy e.1 e.2 := by
  unfold ranked
  rw [List.map_map]
  rfl

/-! ### The placement order -/

theorem placementOrder_perm (s : State) :
    (placementOrder s).Perm
      (((occupied s).filter fun e => decide (e.2.state = .scheduled)).map fun e => orderEntry s.policy e.1 e.2) := by
  rw [← ranked_entries]
  exact (sortRanked_perm (ranked s)).map _

/-- Settles O34: the order is a sorting of the ranks, with strictly ascending keys. -/
theorem placementOrderFollowsMerit : Obligations.PlacementOrderFollowsMerit := by
  intro s
  refine ⟨placementOrder_perm s, ?pairwise⟩
  case pairwise =>
    have hsort : ∀ r, r ∈ sortRanked (ranked s) → r ∈ ranked s := fun r => (sortRanked_perm (ranked s)).mem_iff.mp
    refine List.pairwise_map.mpr ((sortRanked_pairwise_lt (ranked_slots_nodup s)).imp_of_mem ?_)
    intro x y hx hy hlt b c hb hc
    exact (ranked_key_lt_iff (hsort x hx) (hsort y hy) hb hc).mp hlt

end Sys2Proof.Machine
end

section
/-! PROOF. CONFIRM, DECLINE and STOP (R139, R140, R142). Each owner has one equation per case: the handle refused, the state
refused, and the request carried out. What is carried out is either a confirmation or the entry to a finished state, each
followed by the derivation of the levels. -/

namespace Sys2Proof.Machine

/-! ### The owners, case by case -/

theorem takeConfirm_refused {s : State} {h : Handle} {c : ReplyCode} (hr : handleRefusal s h = some c) :
    takeConfirm s h = refuse s c := by
  simp only [takeConfirm, check_refused hr]

theorem takeDecline_refused {s : State} {h : Handle} {c : ReplyCode} (hr : handleRefusal s h = some c) :
    takeDecline s h = refuse s c := by
  simp only [takeDecline, check_refused hr]

theorem takeStop_refused {s : State} {h : Handle} {c : ReplyCode} (hr : handleRefusal s h = some c) :
    takeStop s h = refuse s c := by
  simp only [takeStop, check_refused hr]

/-- A booking as CONFIRM leaves it: RECORDING, its timer discarded (R139). -/
def confirmed (b : Booking) : Booking := { b with state := .recording, confirmTimer := none }

theorem takeConfirm_starting {s : State} {h : Handle} {b : Booking} (hn : NamesBooking s h b)
    (hst : b.state = .starting) :
    takeConfirm s h = accept (settle (updateBooking s h.slot confirmed)) false [] := by
  simp only [takeConfirm, namesBooking_check hn, if_pos hst]
  rfl

theorem takeDecline_starting {s : State} {h : Handle} {b : Booking} (hn : NamesBooking s h b)
    (hst : b.state = .starting) :
    takeDecline s h = accept (settle (finishBooking s h b .failed (some .declined))) false [] := by
  simp only [takeDecline, namesBooking_check hn, if_pos hst]

theorem isRunning_iff (st : BookingState) : st.isRunning = true ↔ st = .starting ∨ st = .recording := by
  cases st <;> decide

theorem takeStop_running {s : State} {h : Handle} {b : Booking} (hn : NamesBooking s h b)
    (hst : b.state = .starting ∨ b.state = .recording) :
    takeStop s h = accept (settle (finishBooking s h b .aborted (some .stopped))) false [] := by
  simp only [takeStop, namesBooking_check hn, if_pos ((isRunning_iff b.state).mpr hst)]

theorem takeConfirm_late {s : State} {h : Handle} {b : Booking} (hn : NamesBooking s h b) (hst : b.state ≠ .starting) :
    takeConfirm s h = refuse s (lateCode b) := by
  simp only [takeConfirm, namesBooking_check hn, if_neg hst]

theorem takeDecline_late {s : State} {h : Handle} {b : Booking} (hn : NamesBooking s h b) (hst : b.state ≠ .starting) :
    takeDecline s h = refuse s (lateCode b) := by
  simp only [takeDecline, namesBooking_check hn, if_neg hst]

theorem takeStop_notRunning {s : State} {h : Handle} {b : Booking} (hn : NamesBooking s h b)
    (hst : ¬ (b.state = .starting ∨ b.state = .recording)) : takeStop s h = refuse s .wrongState := by
  simp only [takeStop, namesBooking_check hn, if_neg (mt (isRunning_iff b.state).mp hst)]

/-! ### A request carried out -/

/-- An owner that leaves the port alone and derives the levels again: the completion event leaves the owner's state with
the levels derived from it, and replies OK. -/
theorem completed_settled {s x : State} (r : Request) (d : Bool) (hport : x.port = s.port) :
    ∃ t, completed r d (accept (settle x) false []) = .next t ∧
      t = { x with port := t.port, out := deriveOutputs x } ∧ OutputsSettled t ∧ Replied s t (kindOf r) d .ok [] :=
  ⟨_, rfl, rfl, rfl, completeRequest_replied r d _ hport⟩

/-- A table in which the booking of a handle was changed: its slot holds the changed record, and the others are as before. -/
theorem slots_of_updateBooking {s t : State} {h : Handle} {b : Booking} {f : Booking → Booking}
    (hn : NamesBooking s h b) (ht : t.bookings = (updateBooking s h.slot f).bookings) :
    SlotsAgreeBut h.slot s t ∧ HoldsBooking s t h.slot (f b) := by
  refine ⟨slotsAgreeBut_of_eq (updateBooking_agree s h.slot f) ht, ?_⟩
  unfold HoldsBooking
  rw [ht]
  exact updateBooking_record f (namesBooking_at hn)

/-- A request that finishes the booking its handle names changes its slot, the links as finishing does, and the stale flag;
of the rest the port and the levels alone (R149). -/
theorem completed_finishBooking {s : State} {h : Handle} {b : Booking} (hn : NamesBooking s h b) (st : BookingState)
    (reason : Option FinishReason) (r : Request) (d : Bool) :
    ∃ t, completed r d (accept (settle (finishBooking s h b st reason)) false []) = .next t ∧
      t = { s with bookings := t.bookings, links := t.links, planner := { s.planner with stale := true },
                   port := t.port, out := t.out } ∧
      t.links = (finishBooking s h b st reason).links ∧ SlotsAgreeBut h.slot s t ∧
      HoldsBooking s t h.slot (asFinished s st reason b) ∧ OutputsSettled t ∧ Replied s t (kindOf r) d .ok [] := by
  have hframe := finishBooking_frame s h b st reason
  have hport : (finishBooking s h b st reason).port = s.port := by rw [hframe]
  obtain ⟨t, hnext, ht, hsettled, hreply⟩ := completed_settled (s := s) r d hport
  have hbookings : t.bookings = (updateBooking s h.slot (finished s st reason)).bookings := by
    rw [ht, ← finishBooking_bookings s h b st reason]
  obtain ⟨hothers, hrecord⟩ := slots_of_updateBooking hn hbookings
  have hlinks : t.links = (finishBooking s h b st reason).links := by rw [ht]
  refine ⟨t, hnext, ?frame, hlinks, hothers, hrecord, hsettled, hreply⟩
  case frame => rw [ht, hframe]

/-- An abort leaves the links alone: only FAILED and MISSED touch the histories (R60). -/
theorem finishBooking_aborted_links (s : State) (h : Handle) (b : Booking) (reason : Option FinishReason) :
    (finishBooking s h b .aborted reason).links = s.links := rfl

/-! ### The levels after a confirmation -/

/-- The REC line of the tuner of a RECORDING booking is asserted (R150). -/
theorem recLine_of_recording {s : State} {h : Handle} {b : Booking} {r : RunningPlacement} (hb : (h, b) ∈ occupied s)
    (hst : b.state = .recording) (hr : b.running = some r) : recLine s r.tuner = true := by
  unfold recLine
  refine List.any_eq_true.mpr ⟨(h, b), hb, ?_⟩
  simp [recordsOn, hst, hr]

theorem startWaiting_iff (s : State) :
    (deriveOutputs s).causes.startWaiting = true ↔ ∃ e ∈ occupied s, e.2.state = .starting := by
  simp [deriveOutputs, causeLevels]

/-- Once a booking is confirmed, the bookings that wait for a start are the STARTING ones of the other slots. -/
theorem startWaiting_confirmed (s : State) (slot : Nat) :
    (deriveOutputs (updateBooking s slot confirmed)).causes.startWaiting = true ↔
      ∃ e ∈ occupied s, e.1.slot ≠ slot ∧ e.2.state = .starting := by
  rw [startWaiting_iff, occupied_updateBooking]
  simp only [List.mem_map, exists_exists_and_eq_and]
  refine exists_congr fun e => and_congr_right fun _ => ?_
  by_cases hslot : e.1.slot = slot
  · simp [hslot, confirmed]
  · simp [hslot]

/-- The booking that was confirmed is listed under its handle. -/
theorem confirmed_mem_occupied {s : State} {h : Handle} {b : Booking} (hn : NamesBooking s h b) :
    (h, confirmed b) ∈ occupied (updateBooking s h.slot confirmed) := by
  rw [mem_occupied, ← namesBooking_tag hn]
  exact updateBooking_record confirmed (namesBooking_at hn)

/-- CONFIRM carried out, with the two levels that follow from it (R139, R150, R182). -/
theorem confirm_carriedOut {s : State} {h : Handle} {d : Bool} {b : Booking} (ht : Taking s (.confirm h) d)
    (hn : NamesBooking s h b) (hst : b.state = .starting) :
    ∃ t, exec .confirm s = .next t ∧ t = { s with bookings := t.bookings, port := t.port, out := t.out } ∧
      SlotsAgreeBut h.slot s t ∧ HoldsBooking s t h.slot (confirmed b) ∧ OutputsSettled t ∧
      Replied s t 0x48#8 d .ok [] ∧ t.out = deriveOutputs (updateBooking s h.slot confirmed) := by
  rw [exec_confirm ht, takeConfirm_starting hn hst]
  obtain ⟨t, hnext, heq, hsettled, hreply⟩ :=
    completed_settled (s := s) (.confirm h) d (updateBooking_port s h.slot confirmed)
  have hbookings : t.bookings = (updateBooking s h.slot confirmed).bookings := by rw [heq]
  have hlevels : t.out = deriveOutputs (updateBooking s h.slot confirmed) := by rw [heq]
  obtain ⟨hothers, hrecord⟩ := slots_of_updateBooking hn hbookings
  refine ⟨t, hnext, ?frame, hothers, hrecord, hsettled, hreply, hlevels⟩
  case frame => rw [heq]; rfl

/-- Settles O43: each request by the check of its handle and the state of its booking. -/
theorem confirmDeclineAndStop : Obligations.ConfirmDeclineAndStop := by
  refine ⟨?confirm, ?decline, ?stop, ?wrongState, ?refused⟩
  case confirm =>
    intro s h d b ht hn hst
    obtain ⟨t, hexec, hframe, hothers, hrecord, hsettled, hreply, hlevels⟩ := confirm_carriedOut ht hn hst
    refine ⟨t, hexec, hframe, hothers, hrecord, hsettled, hreply, ?rec, ?startWaiting⟩
    case rec =>
      intro r hr
      have hline : recLine (updateBooking s h.slot confirmed) r.tuner = true :=
        recLine_of_recording (confirmed_mem_occupied hn) rfl (Option.mem_toList.mp hr)
      rw [hlevels]
      cases htuner : r.tuner with
      | tuner0 => rwa [htuner] at hline
      | tuner1 => rwa [htuner] at hline
    case startWaiting => rw [hlevels, startWaiting_confirmed]
  case decline =>
    intro s h d b ht hn hst
    rw [exec_decline ht, takeDecline_starting hn hst]
    obtain ⟨t, hnext, hframe, hlinks, hothers, hrecord, hsettled, hreply⟩ :=
      completed_finishBooking hn .failed (some .declined) (.decline h) d
    have hhistory : HistoryRemoved s t b := fun i => by rw [hlinks]; exact finish_history (.inl rfl) i
    exact ⟨t, hnext, hframe, hothers, hrecord, hhistory, hsettled, hreply⟩
  case stop =>
    intro s h d b ht hn hst
    rw [exec_stop ht, takeStop_running hn hst]
    obtain ⟨t, hnext, hframe, hlinks, hothers, hrecord, hsettled, hreply⟩ :=
      completed_finishBooking hn .aborted (some .stopped) (.stop h) d
    rw [finishBooking_aborted_links] at hlinks
    rw [hlinks] at hframe
    exact ⟨t, hnext, hframe, hothers, hrecord, hsettled, hreply⟩
  case wrongState =>
    intro s h d b hn
    refine ⟨?confirm, ?decline, ?stop⟩
    case confirm =>
      intro ht hst
      exact refusedWith_of (r := .confirm h) (exec_confirm ht) (takeConfirm_late hn hst)
    case decline =>
      intro ht hst
      exact refusedWith_of (r := .decline h) (exec_decline ht) (takeDecline_late hn hst)
    case stop =>
      intro ht hstarting hrecording
      exact refusedWith_of (r := .stop h) (exec_stop ht) (takeStop_notRunning hn (not_or.mpr ⟨hstarting, hrecording⟩))
  case refused =>
    rintro s h d c hr r (rfl | rfl | rfl) ht
    · exact refusedWith_of (r := .confirm h) (exec_confirm ht) (takeConfirm_refused hr)
    · exact refusedWith_of (r := .decline h) (exec_decline ht) (takeDecline_refused hr)
    · exact refusedWith_of (r := .stop h) (exec_stop ht) (takeStop_refused hr)

end Sys2Proof.Machine
end

section
/-! PROOF. SET_POLICY, SET_ROUTING, SET_TRIM and ACK_CLASH (R90, R167, R177, R178, R186, R188). The codes of a field and the
check of a request come first, then one equation per case of each owner; the completion event is the same for all. -/

namespace Sys2Proof.Machine

/-! ### A request carried out, with its results -/

/-- An owner that leaves the port alone: the completion event changes the port of the owner's state, and replies OK or
ADJUSTED with the owner's results (R176). -/
theorem completed_accept {s x : State} (r : Request) (d adjusted : Bool) (results : List Byte) (hport : x.port = s.port) :
    ∃ t, completed r d (accept x adjusted results) = .next t ∧ t = { x with port := t.port } ∧
      Replied s t (kindOf r) d (acceptedCode adjusted) results :=
  ⟨_, rfl, rfl, completeRequest_replied r d _ hport⟩

/-- The same when the owner derives the levels again. -/
theorem completed_accept_settled {s x : State} (r : Request) (d adjusted : Bool) (results : List Byte)
    (hport : x.port = s.port) :
    ∃ t, completed r d (accept (settle x) adjusted results) = .next t ∧
      t = { x with port := t.port, out := t.out } ∧ OutputsSettled t ∧
      Replied s t (kindOf r) d (acceptedCode adjusted) results :=
  ⟨_, rfl, rfl, rfl, completeRequest_replied r d _ hport⟩

/-! ### SET_POLICY: the check of its fields -/

theorem isWeight_iff (w : Int) : isWeight w = true ↔ -128 ≤ w ∧ w ≤ 127 := by simp [isWeight]

theorem isWeight_all_iff (f : PolicyFields) :
    (isWeight f.w1 && isWeight f.w2 && isWeight f.w3 && isWeight f.w4) = true ↔
      ∀ w ∈ [f.w1, f.w2, f.w3, f.w4], -128 ≤ w ∧ w ≤ 127 := by
  simp only [Bool.and_eq_true, isWeight_iff, List.forall_mem_cons, List.not_mem_nil, false_implies, implies_true, and_true,
    and_assoc]

theorem defaultBandOf_code (band : Option (Fin 4)) : defaultBandOf (defaultBandCode band) = some band := by
  cases band with
  | none => rfl
  | some b => revert b; decide

theorem modeOf_code (mode : PlanningMode) : modeOf (modeCode mode) = some mode := by cases mode <;> rfl

/-- The codes of the default band are the band numbers and 255 for NONE. -/
theorem exists_defaultBandCode {n : Nat} (hn : n ≤ 3 ∨ n = 255) : ∃ band, defaultBandCode band = n := by
  rcases hn with hband | rfl
  · exact ⟨some ⟨n, by omega⟩, rfl⟩
  · exact ⟨none, rfl⟩

theorem exists_modeCode {n : Nat} (hn : n ≤ 1) : ∃ mode, modeCode mode = n := by
  rcases Nat.le_one_iff_eq_zero_or_eq_one.mp hn with rfl | rfl
  · exact ⟨.auto, rfl⟩
  · exact ⟨.deferred, rfl⟩

theorem defaultBandOf_outside {n : Nat} (hn : 3 < n ∧ n ≠ 255) : defaultBandOf n = none := by
  have hnot : ¬ n < 4 := by omega
  simp [defaultBandOf, bandOf, hn.2, hnot]

theorem modeOf_outside {n : Nat} (hn : 1 < n) : modeOf n = none := by
  match n, hn with
  | _ + 2, _ => rfl

/-- The policy that accepted fields are stored as: the weights as sent, the others clamped (R177). -/
def policyStored (f : PolicyFields) (band : Option (Fin 4)) (mode : PlanningMode) : Policy :=
  { w1 := f.w1, w2 := f.w2, w3 := f.w3, w4 := f.w4
    streamLimit := max 1 (min 3 f.streamLimit), wakeLead := min 1800 f.wakeLead, yieldLead := min 600 f.yieldLead
    confirmTimeout := max 10 (min 255 f.confirmTimeout), defaultBand := band, mode := mode }

theorem checkPolicy_accepted {f : PolicyFields} {band : Option (Fin 4)} {mode : PlanningMode}
    (hw : ∀ w ∈ [f.w1, f.w2, f.w3, f.w4], -128 ≤ w ∧ w ≤ 127) (hband : defaultBandCode band = f.defaultBand)
    (hmode : modeCode mode = f.mode) : checkPolicy f = some (policyStored f band mode) := by
  simp only [checkPolicy, ← hband, ← hmode, defaultBandOf_code, modeOf_code, if_pos ((isWeight_all_iff f).mpr hw)]
  rfl

theorem checkPolicy_refused {f : PolicyFields}
    (hf : (∃ w ∈ [f.w1, f.w2, f.w3, f.w4], w < -128 ∨ 127 < w) ∨ (3 < f.defaultBand ∧ f.defaultBand ≠ 255) ∨ 1 < f.mode) :
    checkPolicy f = none := by
  unfold checkPolicy
  rcases hf with ⟨w, hw, hout⟩ | hband | hmode
  · have hno : ¬ (isWeight f.w1 && isWeight f.w2 && isWeight f.w3 && isWeight f.w4) = true := fun hall => by
      have := (isWeight_all_iff f).mp hall w hw
      omega
    simp only [if_neg hno]
    split
    · rfl
    · rfl
  · simp only [defaultBandOf_outside hband]
  · simp only [modeOf_outside hmode]
    split
    · next hdeferred => cases hdeferred
    · rfl

/-! ### SET_POLICY: the stale flag and the answer -/

/-- What makes the Planner stale is a change of a weight, the stream limit or the default band (R178). -/
theorem policyMakesStale_eq (old new : Policy) :
    policyMakesStale old new =
      decide (new.w1 ≠ old.w1 ∨ new.w2 ≠ old.w2 ∨ new.w3 ≠ old.w3 ∨ new.w4 ≠ old.w4 ∨
        new.streamLimit ≠ old.streamLimit ∨ new.defaultBand ≠ old.defaultBand) := by
  rw [Bool.eq_iff_iff]
  simp only [policyMakesStale, Bool.or_eq_true, bne_iff_ne, decide_eq_true_eq, or_assoc, ne_comm]

/-- Only the four numbers that are clamped can differ from what was sent (R177). -/
theorem clampPolicy_bne (f : PolicyFields) (band : Option (Fin 4)) (mode : PlanningMode) :
    (clampPolicy f != f) =
      decide ((policyStored f band mode).streamLimit ≠ f.streamLimit ∨ (policyStored f band mode).wakeLead ≠ f.wakeLead ∨
        (policyStored f band mode).yieldLead ≠ f.yieldLead ∨
        (policyStored f band mode).confirmTimeout ≠ f.confirmTimeout) := by
  obtain ⟨w1, w2, w3, w4, streamLimit, wakeLead, yieldLead, confirmTimeout, defaultBand, mode'⟩ := f
  rw [Bool.eq_iff_iff, bne_iff_ne, decide_eq_true_eq]
  simp only [clampPolicy, clampBetween, policyStored, ne_eq, PolicyFields.mk.injEq, true_and, and_true,
    not_and_or]

theorem takeSetPolicy_refused {s : State} {f : PolicyFields} (hf : checkPolicy f = none) :
    takeSetPolicy s f = refuse s .badValue := by
  simp only [takeSetPolicy, hf]

theorem takeSetPolicy_accepted {s : State} {f : PolicyFields} {p : Policy} (hf : checkPolicy f = some p) :
    takeSetPolicy s f =
      accept (settle (markStaleIf (policyMakesStale s.policy p) { s with policy := p })) (clampPolicy f != f)
        (policyBytes p) := by
  simp only [takeSetPolicy, hf]

/-- SET_POLICY carried out: the policy stored, the stale flag by R178, and the reply with the policy as stored. -/
theorem setPolicy_carriedOut {s : State} {f : PolicyFields} {d : Bool} {p : Policy} (ht : Taking s (.setPolicy f) d)
    (hf : checkPolicy f = some p) :
    ∃ t, exec .setPolicy s = .next t ∧
      t = { s with policy := p, port := t.port, out := t.out,
                   planner := { s.planner with stale := s.planner.stale || policyMakesStale s.policy p } } ∧
      OutputsSettled t ∧ Replied s t 0x58#8 d (acceptedCode (clampPolicy f != f)) (policyBytes p) := by
  rw [exec_setPolicy ht, takeSetPolicy_accepted hf, markStaleIf_eq]
  exact completed_accept_settled (.setPolicy f) d _ _ rfl

/-! ### SET_ROUTING -/

theorem routingOf_code (r : Routing) : routingOf (routingCode r) = some r := by cases r <;> rfl

theorem routingOf_outside {n : Nat} (hn : 2 < n) : routingOf n = none := by
  match n, hn with
  | _ + 3, _ => rfl

theorem checkRouting_codes (x : PerCause Routing) :
    checkRouting
        ⟨routingCode x.startWaiting, routingCode x.clash, routingCode x.ended, routingCode x.yield, routingCode x.clock,
          routingCode x.linkNote⟩ = some x := by
  simp only [checkRouting, routingOf_code]

/-- One routing out of range refuses all six (R186). -/
theorem checkRouting_refused {x : PerCause Nat} (hx : ∃ r ∈ PerCause.toList x, 2 < r) : checkRouting x = none := by
  obtain ⟨r, hr, hout⟩ := hx
  unfold checkRouting
  split
  · next hstart hclash hended hyield hclock hnote =>
    have hall : ∀ n ∈ PerCause.toList x, routingOf n ≠ none := by
      simp [PerCause.toList, hstart, hclash, hended, hyield, hclock, hnote]
    exact absurd (routingOf_outside hout) (hall r hr)
  · rfl

theorem routingBytes_eq (x : PerCause Routing) :
    routingBytes x = (PerCause.toList x).map fun r => BitVec.ofNat 8 (routingCode r) := rfl

theorem takeSetRouting_accepted {s : State} {r : PerCause Nat} {x : PerCause Routing} (hr : checkRouting r = some x) :
    takeSetRouting s r = accept (settle { s with routings := x }) false (routingBytes x) := by
  simp only [takeSetRouting, hr]

theorem takeSetRouting_refused {s : State} {r : PerCause Nat} (hr : checkRouting r = none) :
    takeSetRouting s r = refuse s .badValue := by
  simp only [takeSetRouting, hr]

/-! ### SET_TRIM -/

theorem clampTrim_eq (z : Int) : clampTrim z = if z < -256 then -256 else if 255 < z then 255 else z := by
  unfold clampTrim
  omega

theorem takeSetTrim_eq (s : State) (trim : Int) :
    takeSetTrim s trim =
      accept (setClock s { s.clock with trim := clampTrim trim }) (decide (clampTrim trim ≠ trim))
        (signedTwoBytes (clampTrim trim)) := by
  have hchanged : (clampTrim trim != trim) = decide (clampTrim trim ≠ trim) := by
    rw [Bool.eq_iff_iff, bne_iff_ne, decide_eq_true_eq]
  rw [takeSetTrim, hchanged]

/-! ### ACK_CLASH -/

/-- A booking with its clash mark cleared (R188). -/
def unmarked (b : Booking) : Booking := { b with clashMark := false }

theorem takeAckClash_refused {s : State} {h : Handle} {c : ReplyCode} (hr : handleRefusal s h = some c) :
    takeAckClash s h = refuse s c := by
  simp only [takeAckClash, check_refused hr]

theorem takeAckClash_marked {s : State} {h : Handle} {b : Booking} (hn : NamesBooking s h b) (hm : b.clashMark = true) :
    takeAckClash s h =
      accept (settle (updateBooking s h.slot unmarked)) false
        [0x01#8, BitVec.ofNat 8 (markedCount (updateBooking s h.slot unmarked))] := by
  simp only [takeAckClash, namesBooking_check hn, if_pos hm]
  rfl

theorem takeAckClash_clear {s : State} {h : Handle} {b : Booking} (hn : NamesBooking s h b) (hm : b.clashMark = false) :
    takeAckClash s h = accept s false [0x00#8, BitVec.ofNat 8 (markedCount s)] := by
  simp only [takeAckClash, namesBooking_check hn, hm, Bool.false_eq_true, if_false]
  rfl

/-- A change of one slot changes one entry of the list of bookings, slots being listed once. -/
theorem occupied_updateBooking_split {s : State} {h : Handle} {b : Booking} (f : Booking → Booking)
    (hb : (h, b) ∈ occupied s) :
    ∃ before behind, occupied s = before ++ (h, b) :: behind ∧
      occupied (updateBooking s h.slot f) = before ++ (h, f b) :: behind := by
  obtain ⟨before, behind, hsplit⟩ := List.append_of_mem hb
  have hnodup : ((before ++ (h, b) :: behind).map fun e => e.1.slot).Nodup := hsplit ▸ occupied_nodup s
  rw [List.map_append, List.map_cons, List.nodup_middle, List.nodup_cons, ← List.map_append] at hnodup
  obtain ⟨hnotmem, -⟩ := hnodup
  have hother : ∀ e ∈ before ++ behind, e.1.slot ≠ h.slot := fun e he heq =>
    hnotmem (heq ▸ List.mem_map_of_mem he)
  have hkept : ∀ es : List (Handle × Booking), (∀ e ∈ es, e.1.slot ≠ h.slot) →
      (es.map fun e => (e.1, if e.1.slot = h.slot then f e.2 else e.2)) = es := fun es hes =>
    (List.map_congr_left fun e he => by rw [if_neg (hes e he), id]).trans (List.map_id es)
  refine ⟨before, behind, hsplit, ?_⟩
  rw [occupied_updateBooking, hsplit, List.map_append, List.map_cons, if_pos rfl,
    hkept before fun e he => hother e (List.mem_append_left _ he),
    hkept behind fun e he => hother e (List.mem_append_right _ he)]

/-- Clearing a mark that was set leaves one mark fewer. -/
theorem markedCount_unmarked {s : State} {h : Handle} {b : Booking} (hb : (h, b) ∈ occupied s) (hm : b.clashMark = true) :
    markedCount (updateBooking s h.slot unmarked) = markedCount s - 1 := by
  obtain ⟨before, behind, hold, hnew⟩ := occupied_updateBooking_split unmarked hb
  simp [markedCount, countBookings, hold, hnew, unmarked, hm, List.countP_append]

/-- ACK_CLASH of a booking whose mark is set: the mark is cleared, and one mark fewer remains (R188). -/
theorem ackClash_marked {s : State} {h : Handle} {d : Bool} {b : Booking} (ht : Taking s (.ackClash h) d)
    (hn : NamesBooking s h b) (hm : b.clashMark = true) :
    ∃ t, exec .ackClash s = .next t ∧ t = { s with bookings := t.bookings, port := t.port, out := t.out } ∧
      SlotsAgreeBut h.slot s t ∧ HoldsBooking s t h.slot (unmarked b) ∧ OutputsSettled t ∧
      Replied s t 0x62#8 d .ok [0x01#8, BitVec.ofNat 8 (markedCount s - 1)] := by
  have hb : (h, b) ∈ occupied s := (mem_occupied s h b).mpr (namesBooking_slot hn)
  rw [exec_ackClash ht, takeAckClash_marked hn hm, markedCount_unmarked hb hm]
  obtain ⟨t, hnext, hframe, hsettled, hreply⟩ := completed_accept_settled (.ackClash h) d false
    [0x01#8, BitVec.ofNat 8 (markedCount s - 1)] (updateBooking_port s h.slot unmarked)
  have hbookings : t.bookings = (updateBooking s h.slot unmarked).bookings := by rw [hframe]
  obtain ⟨hothers, hrecord⟩ := slots_of_updateBooking hn hbookings
  refine ⟨t, hnext, ?frame, hothers, hrecord, hsettled, hreply⟩
  case frame => rw [hframe]; rfl

/-- ACK_CLASH of a booking whose mark is clear changes the port alone (R188). -/
theorem ackClash_clear {s : State} {h : Handle} {d : Bool} {b : Booking} (ht : Taking s (.ackClash h) d)
    (hn : NamesBooking s h b) (hm : b.clashMark = false) :
    ∃ t, exec .ackClash s = .next t ∧ t = { s with port := t.port } ∧
      Replied s t 0x62#8 d .ok [0x00#8, BitVec.ofNat 8 (markedCount s)] := by
  rw [exec_ackClash ht, takeAckClash_clear hn hm]
  exact read_next s (.ackClash h) d false [0x00#8, BitVec.ofNat 8 (markedCount s)]

/-- Settles O48: each request by the check of what it carries. -/
theorem settingsAreStored : Obligations.SettingsAreStored := by
  refine ⟨?policy, ?policyRefused, ?routing, ?routingRefused, ?trim, ?ackClash, ?ackRefused⟩
  case policy =>
    intro s f d ht hw hband hmode
    obtain ⟨band, hband⟩ := exists_defaultBandCode hband
    obtain ⟨mode, hmode⟩ := exists_modeCode hmode
    obtain ⟨t, hexec, hframe, hsettled, hreply⟩ := setPolicy_carriedOut ht (checkPolicy_accepted hw hband hmode)
    have hpolicy : t.policy = policyStored f band mode := by rw [hframe]
    rw [policyMakesStale_eq] at hframe
    rw [clampPolicy_bne f band mode] at hreply
    refine ⟨t, hexec, ?_⟩
    rw [hpolicy]
    exact ⟨hframe, ⟨rfl, rfl, rfl, rfl⟩, rfl, rfl, rfl, rfl, hband, hmode, hsettled, hreply⟩
  case policyRefused =>
    intro s f d ht hf
    exact refusedWith_of (r := .setPolicy f) (exec_setPolicy ht) (takeSetPolicy_refused (checkPolicy_refused hf))
  case routing =>
    intro s d x ht
    rw [exec_setRouting ht, takeSetRouting_accepted (checkRouting_codes x), routingBytes_eq]
    exact completed_accept_settled (s := s) (.setRouting _) d false _ rfl
  case routingRefused =>
    intro s d x ht hx
    exact refusedWith_of (r := .setRouting x) (exec_setRouting ht) (takeSetRouting_refused (checkRouting_refused hx))
  case trim =>
    intro s trim d ht
    rw [exec_setTrim ht, takeSetTrim_eq]
    obtain ⟨t, hnext, hframe, hreply⟩ := completed_accept (.setTrim trim) d (decide (clampTrim trim ≠ trim))
      (signedTwoBytes (clampTrim trim)) (setClock_port s { s.clock with trim := clampTrim trim })
    exact ⟨t, clampTrim trim, hnext, clampTrim_eq trim, hframe, hreply⟩
  case ackClash =>
    intro s h d b ht hn
    cases hm : b.clashMark with
    | true =>
      obtain ⟨t, hexec, hmarked⟩ := ackClash_marked ht hn hm
      exact ⟨t, hexec, fun _ => hmarked, fun hclear => absurd hclear.symm Bool.false_ne_true⟩
    | false =>
      obtain ⟨t, hexec, hclear⟩ := ackClash_clear ht hn hm
      exact ⟨t, hexec, fun hset => absurd hset Bool.false_ne_true, fun _ => hclear⟩
  case ackRefused =>
    intro s h d c ht hr
    exact refusedWith_of (r := .ackClash h) (exec_ackClash ht) (takeAckClash_refused hr)

end Sys2Proof.Machine
end

section
/-! PROOF. What one command may do, said once for the invariants (O52 to O60). Up to the port, the derived levels, the
routings, HOSTAWAKE and the stale flag, a command first makes preparations (`Prepares`: an announcement leaves the queue, a
link wakes, a SOFT hold is preempted, a running booking takes new fields) and then at most one change of the tables
(`Changes`). What becomes of one booking record is an `Edit`. -/

namespace Sys2Proof.Machine

/-! ### What becomes of one record -/

/-- The moves by which a booking enters a finished state, with their reasons (R8, R9, R149). -/
def mayFinish : BookingState → BookingState → Option FinishReason → Bool
  | .starting, .aborted, some .stopped | .starting, .aborted, some .withdrawn => true
  | .recording, .aborted, some .stopped | .recording, .aborted, some .withdrawn => true
  | .starting, .failed, some .declined | .starting, .failed, some .noConfirm => true
  | .recording, .completed, none | .scheduled, .missed, none => true
  | _, _, _ => false

/-- A running booking with its end computed again while its close event is not due (R147). -/
def retimed (x : State) (newPost : Option Nat) (b : Booking) : Booking :=
  match b.running with
  | none => b
  | some r =>
    if b.closeReached then b
    else
      let r1 := { r with postAllowance := newPost.getD r.postAllowance }
      { b with running := some { r1 with closePoint := closePointOf b r1 }, closeReached := reached x (closePointOf b r1) }

/-- A booking whose showing takes the announced start and duration, or the duration alone, with the version raised when the
showing changed (R69 to R71). -/
def reshown (x : State) (h : Handle) (b : Booking) (u : ShowingUsed) (g : Showing → Showing) (st : RunningStatus) : Booking :=
  { withShowing b u g with
    version := if showingNamed (withShowing b u g) u != showingNamed b u then raisedVersion x h b else b.version
    runningStatus := st }

/-- The announced times, for a SCHEDULED booking (R69). -/
def announcedTimes (a : Announcement) (v : Showing) : Showing := { v with start := a.start, duration := a.duration }

/-- The announced duration, for a running booking (R70). -/
def announcedDuration (a : Announcement) (v : Showing) : Showing := { v with duration := a.duration }

/-- A running booking takes new fields, and its end moves when they change it: by an amend (R15), or by an announcement of
its showing in use (R70, R71). -/
inductive Refit (s0 x : State) (h : Handle) (b : Booking) : Booking → Prop
  | amended (f : AmendBookingFields) (d : Bool) : b.state.isRunning = true →
      s0.port.inProcess = some ⟨.amendBooking h f, d⟩ → AmendAccepted f →
      runningAmendAllowed b (clampedAmend (usedOf b) f) = true →
      Refit s0 x h b
        (if showingNamed b (usedOf b) != amendShowing (clampedAmend (usedOf b) f) (usedOf b) ||
            b.postPad != (clampedAmend (usedOf b) f).postPad then
          retimed x
            (if b.postPad != (clampedAmend (usedOf b) f).postPad then some (clampedAmend (usedOf b) f).postPad else none)
            (amended x h b (clampedAmend (usedOf b) f))
        else amended x h b (clampedAmend (usedOf b) f))
  | announced (a : Announcement) : b.state.isRunning = true → a ∈ s0.queue →
      pairNamed b (usedOf b) = some (a.channel, a.event) →
      Refit s0 x h b
        (if showingNamed (withShowing b (usedOf b) (announcedDuration a)) (usedOf b) != showingNamed b (usedOf b) then
          retimed x none (reshown x h b (usedOf b) (announcedDuration a) a.status)
        else reshown x h b (usedOf b) (announcedDuration a) a.status)

/-- What one event may make of the booking under a handle. `s0` is the state before the event, with the request in process and
the queue; `x` the state when the record is written, and `y` the state whose clock brings close points to be reached. -/
inductive Edit (s0 x y : State) (h : Handle) (b : Booking) : Booking → Prop
  | same : Edit s0 x y h b b
  | marked (heldBack clashMark : Bool) : Edit s0 x y h b { b with heldBack := heldBack, clashMark := clashMark }
  | unlinked : Edit s0 x y h b { b with link := none }
  | resulted (p : PassRecord) (e : Evaluation) : x.planner.pass = some p → resultFor p h = some e → b.state = .scheduled →
      Edit s0 x y h b { writeResult e b with heldBack := false }
  | reached : Edit s0 x y h b (reachClosePoint y b)
  | confirmed : b.state = .starting → Edit s0 x y h b (confirmed b)
  | started (p : Placement) (key : MuxKey) : currentPlacement b = some p → openKey x b p = some key →
      openCheck x h.slot p key = true → Edit s0 x y h b (started x p key b)
  | extended (r : RunningPlacement) : b.state = .recording → b.running = some r → extensionGranted x h.slot b r = true →
      Edit s0 x y h b (extended x r b)
  | finished (st : BookingState) (reason : Option FinishReason) : mayFinish b.state st reason = true →
      Edit s0 x y h b (finished x st reason b)
  | rescheduled (f : AmendBookingFields) (d : Bool) (st : RunningStatus) : b.state = .scheduled →
      s0.port.inProcess = some ⟨.amendBooking h f, d⟩ → AmendAccepted f →
      duplicates x (some h.slot) (clampedAmend .primary f).primary (clampedAmend .primary f).alternative = false →
      Edit s0 x y h b { amended x h b (clampedAmend .primary f) with runningStatus := st }
  | announced (a : Announcement) (u : ShowingUsed) (st : RunningStatus) : b.state = .scheduled → a ∈ s0.queue →
      pairNamed b u = some (a.channel, a.event) → Edit s0 x y h b (reshown x h b u (announcedTimes a) st)
  | attached (a : Announcement) : b.state = .scheduled → b.alternative = none → a ∈ s0.queue →
      ¬ PairStands x none (some (a.channel, a.event)) →
      Edit s0 x y h b { b with alternative := some (announcedShowing a), version := raisedVersion x h b }
  | refitted {c : Booking} : Refit s0 x h b c → Edit s0 x y h b c

/-- The bookings an event may create: by ADD_BOOKING (R11, R12), or by the matcher for a link (R82). -/
inductive Creates (s0 x : State) : Booking → Prop
  | manual (f : AddBookingFields) (d : Bool) : s0.port.inProcess = some ⟨.addBooking f, d⟩ → AddAccepted f →
      duplicates x none (clampedAdd f).primary (clampedAdd f).alternative = false →
      Creates s0 x (manualBooking (clampedAdd f))
  | series (h : Handle) (l : Link) (a : Announcement) : a ∈ s0.queue → linkOf x h = some { l with status := .active } →
      ¬ PairStands x none (some (a.channel, a.event)) → (∀ e, a.episode = some e → e ∉ l.history) →
      Creates s0 x (seriesBooking h l a)

/-! ### What becomes of the tables -/

/-- A change of a link that leaves its series id and its history, and its fields in range (R49, R51, R52, R56). -/
def KeepsLink (f : Link → Link) : Prop :=
  ∀ l, (f l).seriesId = l.seriesId ∧ (f l).history = l.history ∧ (LinkWf l → LinkWf (f l))

/-- What a command may do before it changes the tables. -/
inductive Prepares (s0 x : State) : State → Prop
  | popped (a : Announcement) (rest : List Announcement) : x.queue = a :: rest → Prepares s0 x { x with queue := rest }
  | relinked (i : Nat) (f : Link → Link) : KeepsLink f → Prepares s0 x (updateLink x i f)
  | preempted (t : Tuner) : (softHold x t).isSome = true → Prepares s0 x (dropHold x t .preempted)
  | refitted (h : Handle) (b c : Booking) : (h, b) ∈ occupied x → Refit s0 x h b c →
      Prepares s0 x (updateBooking x h.slot fun _ => c)

/-- The one change of the tables that a command may make. -/
inductive Changes (s0 x : State) : State → Prop
  | none : Changes s0 x x
  | poweredOn : Changes s0 x { State.reset with pending := x.pending }
  | cleared (holds : PerTuner HoldRecord) : (∀ t, (holds.at t).hold = Option.none ∨ holds.at t = x.holds.at t) →
      Changes s0 x
        { x with
          bookings := x.bookings.map fun sl => { sl with booking := Option.none }
          links := x.links.map fun sl => { sl with link := Option.none }
          queue := [], holds := holds, planner := clearPlanner x.planner }
  | holdsLost (holds : PerTuner HoldRecord) : (∀ t, (holds.at t).hold = Option.none ∨ holds.at t = x.holds.at t) →
      Changes s0 x { x with holds := holds }
  | held (t : Tuner) (new : Hold) : (new.kind = .firm → holdConflict x t new.key = false) →
      Changes s0 x (putHold x t ⟨some new, .noDrop⟩)
  | booked (slot : Nat) (b : Booking) : lowestFreeBooking x = some slot → Creates s0 x b → b.link = Option.none →
      Changes s0 x (occupyBooking x slot b)
  | bookedEpisode (slot : Nat) (h : Handle) (l : Link) (a : Announcement) (ids : List Nat) :
      lowestFreeBooking x = some slot → Creates s0 x (seriesBooking h l a) → linkOf x h = some { l with status := .active } →
      (∀ e, a.episode = some e → e ∉ l.history) → historyAfter x h l a = some ids →
      Changes s0 x (updateLink (occupyBooking x slot (seriesBooking h l a)) h.slot fun k => { k with history := ids })
  | freed (i : Nat) : Changes s0 x (freeBooking x i)
  | edited (h : Handle) (b c : Booking) : (h, b) ∈ occupied x → Edit s0 x x h b c →
      Changes s0 x (updateBooking x h.slot fun _ => c)
  | finished (h : Handle) (b : Booking) (st : BookingState) (reason : Option FinishReason) : (h, b) ∈ occupied x →
      mayFinish b.state st reason = true → Changes s0 x (finishBooking x h b st reason)
  | unlinked (h : Handle) (l : Link) (withdraw : Bool) : linkOf x h = some l → Changes s0 x (removeLink x h withdraw)
  | installed (p : PassRecord) : x.planner.pass = some p → Changes s0 x (installPass x p)
  | begun (n : Nat) : n = x.planner.abandoned ∨ n ≤ Config.abandonLimit →
      Changes s0 x (beginPass { x with planner := { x.planner with abandoned := n } })
  | stepped (p : PassRecord) (e : OrderEntry) : x.planner.pass = some p → x.planner.stepsDone < x.planner.stepsTotal →
      p.order[x.planner.stepsDone]? = some e →
      Changes s0 x
        { x with
          planner :=
            { x.planner with
              pass := some (stepRecord x p e), stepsDone := x.planner.stepsDone + 1, lastEvaluated := some e.handle } }
  | entered (e : ChannelEntry) : isChannel e.channel = true → isMux e.mux = true →
      (entryOf x e.channel).isSome = true ∨ x.map.entries.length < Config.mapPlaces →
      Changes s0 x (setEntries x (putEntry e x.map.entries))
  | removed (channel : Nat) : Changes s0 x (setEntries x (removeEntry channel x.map.entries))
  | banded (bands : Bands) : Changes s0 x (setBands x bands)
  | linkAdded (slot : Nat) (l : Link) : lowestFreeLink x = some slot → linkOfSeries x l.seriesId = Option.none → LinkWf l →
      Changes s0 x (occupyLink x slot l)
  | relinked (i : Nat) (f : Link → Link) : KeepsLink f → Changes s0 x (updateLink x i f)
  | queued (f : AnnounceFields) (d : Bool) (a : Announcement) : s0.port.inProcess = some ⟨.announce f, d⟩ →
      checkAnnounce f = some a → x.queue.length < Config.queuePlaces → Changes s0 x { x with queue := x.queue ++ [a] }
  | clocked (c : Clock) : c.seconds = x.clock.seconds → c.valid = x.clock.valid → c.elapsed = x.clock.elapsed →
      (ClockWf x.clock → ClockWf c) → Changes s0 x (setClock x c)
  | ticked : someTimerEventDue x = false → Changes s0 x (reachClosePoints (setClock x (tickClock x.clock)))
  | timeSet (seconds part force : Nat) (d : Bool) : s0.port.inProcess = some ⟨.setTime seconds part force, d⟩ → part ≤ 63 →
      Changes s0 x (reachClosePoints (setClock x (stepClock x.clock seconds part)))
  | policySet (f : PolicyFields) (p : Policy) : checkPolicy f = some p → Changes s0 x { x with policy := p }

/-- Two states agree but for the port, the derived levels, the routings, HOSTAWAKE and the stale flag. -/
def SameTables (y t : State) : Prop :=
  t = { y with port := t.port, out := t.out, routings := t.routings, hostAwake := t.hostAwake,
               planner := { y.planner with stale := t.planner.stale } }

/-- One command's effect: preparations, at most one change, and the levels settled again where they were. -/
def Effect (s t : State) : Prop :=
  (∃ x y, Relation.ReflTransGen (Prepares s) s x ∧ Changes s x y ∧ SameTables y t) ∧
    (OutputsSettled s → OutputsSettled t)

end Sys2Proof.Machine
end

section
/-! PROOF. The effect of each command, part 1: the form of an effect, and the requests of the port, the map, the holds, the
links, the clock, the policy and the Attention Unit. -/

namespace Sys2Proof.Machine

/-! ### States that agree in the tables -/

theorem sameTables_settle (y : State) : SameTables y (settle y) := rfl

theorem sameTables_settle_markStale (y : State) : SameTables y (settle (markStale y)) := rfl

theorem sameTables_settle_markStaleIf (c : Bool) (y : State) : SameTables y (settle (markStaleIf c y)) := by
  rw [markStaleIf_eq]; rfl

theorem sameTables_completeRequest {y t : State} (q : InProcess) (a : Answer) (h : SameTables y t) :
    SameTables y (completeRequest t q a) := by
  unfold SameTables at h ⊢
  rw [h]; rfl

/-! ### The form of an effect -/

/-- A change without preparations, after which the levels are settled. -/
theorem effect_settled {s y t x : State} (hc : Changes s s y) (ht : SameTables y t) (hx : t = settle x) : Effect s t :=
  ⟨⟨s, y, .refl, hc, ht⟩, fun _ => hx ▸ settle_settled x⟩

/-- A change that no level reads. -/
theorem effect_unread {s y : State} (hc : Changes s s y) (hout : y.out = s.out) (hd : deriveOutputs y = deriveOutputs s) :
    Effect s y :=
  ⟨⟨s, y, .refl, hc, rfl⟩, fun h => by unfold OutputsSettled at h ⊢; rw [hout, hd, h]⟩

theorem effect_refl (s : State) : Effect s s := effect_unread .none rfl rfl

/-- A command that changes the port alone. -/
theorem effect_setPort (s : State) (p : Port) : Effect s (setPort s p) := ⟨⟨s, s, .refl, .none, rfl⟩, fun h => h⟩

theorem effect_refuse (s : State) (c : ReplyCode) : Effect s (refuse s c).1 := effect_refl s

theorem effect_completed {s t : State} (q : InProcess) (a : Answer) (h : Effect s t) :
    Effect s (completeRequest t q a) := by
  obtain ⟨⟨x, y, hp, hc, ht⟩, ho⟩ := h
  exact ⟨⟨x, y, hp, hc, sameTables_completeRequest q a ht⟩, fun hs => completeRequest_settled q a (ho hs)⟩

/-! ### Port, Attention Unit and policy -/

theorem takeSetPolicy_effect (s : State) (f : PolicyFields) : Effect s (takeSetPolicy s f).1 := by
  cases hf : checkPolicy f with
  | none => rw [takeSetPolicy_refused hf]; exact effect_refuse s _
  | some p =>
    rw [takeSetPolicy_accepted hf]
    exact effect_settled (.policySet f p hf) (sameTables_settle_markStaleIf _ _) rfl

theorem takeSetRouting_effect (s : State) (r : PerCause Nat) : Effect s (takeSetRouting s r).1 := by
  cases hr : checkRouting r with
  | none => rw [takeSetRouting_refused hr]; exact effect_refuse s _
  | some x =>
    rw [takeSetRouting_accepted hr]
    exact effect_settled .none rfl rfl

/-- The check of a booking handle answers the booking it names, or a refusal. -/
theorem checkBooking_ok {s : State} {h : Handle} {b : Booking} (hb : checkBooking s h = .ok b) : NamesBooking s h b := by
  unfold checkBooking at hb
  split at hb
  · cases hb
  · next hin =>
    split at hb
    · next c hc => injection hb with hb; subst hb; exact ⟨by omega, by omega, hc⟩
    · cases hb

theorem checkLink_ok {s : State} {h : Handle} {l : Link} (hl : checkLink s h = .ok l) : NamesLink s h l := by
  unfold checkLink at hl
  split at hl
  · next hin =>
    split at hl
    · next k hk =>
      injection hl with hl; subst hl
      simp only [linkHandleInRange, Bool.and_eq_true, decide_eq_true_eq, bne_iff_ne] at hin
      exact ⟨hin.1, hin.2, hk⟩
    · cases hl
  · cases hl

theorem occupied_of_names {s : State} {h : Handle} {b : Booking} (hn : NamesBooking s h b) : (h, b) ∈ occupied s :=
  (bookingOf_iff_occupied s h b).mp hn.2.2

/-- A change of the record in an occupied slot writes the record that it makes of the booking there. -/
theorem updateBooking_eq_const {s : State} {h : Handle} {b : Booking} (f : Booking → Booking) (hb : (h, b) ∈ occupied s) :
    updateBooking s h.slot f = updateBooking s h.slot fun _ => f b := by
  rw [mem_occupied] at hb
  unfold updateBooking
  congr 1
  apply List.ext_getElem?
  intro j
  rw [List.getElem?_modify, List.getElem?_modify]
  by_cases hj : h.slot = j
  · subst hj; simp [hb]
  · simp [hj]

/-- An edit of one record, after which the levels are settled. -/
theorem effect_edited {s t x : State} {h : Handle} {b : Booking} (f : Booking → Booking) (hb : (h, b) ∈ occupied s)
    (he : Edit s s s h b (f b)) (ht : SameTables (updateBooking s h.slot f) t) (hx : t = settle x) : Effect s t := by
  rw [updateBooking_eq_const f hb] at ht
  exact effect_settled (.edited h b (f b) hb he) ht hx

theorem takeAckClash_effect (s : State) (h : Handle) : Effect s (takeAckClash s h).1 := by
  unfold takeAckClash
  cases hc : checkBooking s h with
  | error c => exact effect_refuse s c
  | ok b =>
    dsimp only
    split
    · exact effect_edited (fun x => { x with clashMark := false }) (occupied_of_names (checkBooking_ok hc))
        (.marked b.heldBack false) (sameTables_settle _) rfl
    · exact effect_refl s

/-- Dropping the holds loses each or nothing. -/
theorem dropHolds_loses (s : State) (u : Tuner) (r : DropReason) :
    ((dropHolds s r).holds.at u).hold = none ∨ (dropHolds s r).holds.at u = s.holds.at u := by
  rw [dropHolds_at]
  split
  · exact .inl rfl
  · exact .inr rfl

theorem clearAll_effect (s : State) : Effect s (clearAll s) := by
  unfold clearAll
  rw [dropHolds_frame]
  refine effect_settled (.cleared _ ?_) (sameTables_settle _) rfl
  exact fun u => dropHolds_loses _ u .released

/-! ### The Channel Map -/

theorem takeSetChannel_effect (s : State) (channel mux band : Nat) : Effect s (takeSetChannel s channel mux band).1 := by
  unfold takeSetChannel
  split
  · next b _ =>
    split
    · next hin =>
      rw [Bool.and_eq_true] at hin
      dsimp only
      split
      · exact effect_refuse s _
      · next hfull =>
        refine effect_settled (.entered ⟨channel, mux, b⟩ hin.1 hin.2 ?_) (sameTables_settle_markStaleIf _ _) rfl
        simp only [Bool.and_eq_true, decide_eq_true_eq, Option.isNone_iff_eq_none, not_and, not_le] at hfull
        rw [Option.isSome_iff_ne_none]
        exact or_iff_not_imp_left.mpr fun hnone => hfull (not_ne_iff.mp hnone)
    · exact effect_refuse s _
  · exact effect_refuse s _

theorem takeRemoveChannel_effect (s : State) (channel : Nat) : Effect s (takeRemoveChannel s channel).1 := by
  unfold takeRemoveChannel
  split
  · split
    · exact effect_settled (.removed channel) (sameTables_settle_markStale _) rfl
    · exact effect_refuse s _
  · exact effect_refuse s _

theorem takeReadChannel_effect (s : State) (channel : Nat) : Effect s (takeReadChannel s channel).1 := by
  unfold takeReadChannel
  split
  · split
    · exact effect_refl s
    · exact effect_refuse s _
  · exact effect_refuse s _

theorem takeSetBand_effect (s : State) (band eligible : Nat) : Effect s (takeSetBand s band eligible).1 := by
  unfold takeSetBand
  split
  · exact effect_settled (.banded _) (sameTables_settle_markStaleIf _ _) rfl
  · exact effect_refuse s _

/-! ### Tuner Holds -/

/-- The hold that an accepted HOLD leaves has the kind asked for and the key resolved (R40). -/
theorem acceptedHold_kind_key (s : State) (old : Option Hold) (kind : HoldKind) (channel : Nat) (key : MuxKey) :
    (acceptedHold s old kind channel key).1.kind = kind ∧ (acceptedHold s old kind channel key).1.key = key := by
  unfold acceptedHold
  cases old with
  | none => exact ⟨rfl, rfl⟩
  | some h =>
    dsimp only
    split
    · next hsame => exact hsame
    · exact ⟨rfl, rfl⟩

theorem takeHold_effect (s : State) (tuner channel kind : Nat) : Effect s (takeHold s tuner channel kind).1 := by
  unfold takeHold
  split
  · next t k _ _ =>
    split
    · split
      · exact effect_refuse s _
      · next route _ =>
        split
        · split
          · exact effect_refuse s _
          · next hfree =>
            obtain ⟨hkind, hkey⟩ := acceptedHold_kind_key s (s.holds.at t).hold k channel route.key
            refine effect_settled (.held t _ fun hfirm => ?_) (sameTables_settle_markStaleIf _ _) rfl
            rw [hkey]
            exact Bool.eq_false_iff.mpr fun hconflict => hfree ⟨hkind ▸ hfirm, hconflict⟩
        · exact effect_refuse s _
    · exact effect_refuse s _
  · exact effect_refuse s _

/-- Dropping a hold loses it or nothing. -/
theorem dropHold_loses (s : State) (t u : Tuner) (r : DropReason) :
    ((dropHold s t r).holds.at u).hold = none ∨ (dropHold s t r).holds.at u = s.holds.at u := by
  rw [dropHold_at]
  split
  · exact .inl rfl
  · exact .inr rfl

theorem takeRelease_effect (s : State) (tuner : Nat) : Effect s (takeRelease s tuner).1 := by
  unfold takeRelease
  split
  · next t _ =>
    dsimp only
    refine effect_settled (.holdsLost _ fun u => dropHold_loses s t u .released) ?_ rfl
    rw [← dropHold_frame]
    exact sameTables_settle_markStaleIf _ _
  · exact effect_refuse s _

/-! ### Links and announcements -/

theorem linkOfSeries_none_of_not_isSome {s : State} {series : Nat} (h : ¬ (linkOfSeries s series).isSome = true) :
    linkOfSeries s series = none := Option.not_isSome_iff_eq_none.mp h

/-- Link fields that pass the check are accepted, and stored clamped. -/
theorem checkLinkFields_some {f c : LinkFields} (h : checkLinkFields f = some c) : LinkFieldsAccepted f ∧ c = clampedLink f := by
  by_cases hf : LinkFieldsAccepted f
  · rw [(checkLinkFields_ok hf).1] at h
    injection h with h
    exact ⟨hf, h.symm⟩
  · rw [checkLinkFields_bad hf] at h; cases h

/-- Clamped link fields lie in their ranges (R49). -/
theorem clampedLink_ranges (f : LinkFields) :
    (clampedLink f).priority ≤ 7 ∧ (clampedLink f).prePad ≤ 7200 ∧ (clampedLink f).postPad ≤ 7200 ∧
      1 ≤ (clampedLink f).keepAhead ∧ (clampedLink f).keepAhead ≤ 8 := by
  unfold clampedLink
  dsimp only
  omega

theorem newLink_wf (series : Nat) (status : LinkStatus) (policy : LinkPolicy) (f : LinkFields) :
    LinkWf (newLink series status policy (clampedLink f)) := by
  obtain ⟨hpri, hpre, hpost, hlow, hhigh⟩ := clampedLink_ranges f
  exact ⟨hpri, hpre, hpost, hlow, hhigh, by simp [newLink], by simp [newLink]⟩

theorem amendedLink_keeps (policy : LinkPolicy) (f : LinkFields) : KeepsLink (amendedLink policy (clampedLink f)) := by
  obtain ⟨hpri, hpre, hpost, hlow, hhigh⟩ := clampedLink_ranges f
  exact fun l => ⟨rfl, rfl, fun ⟨_, _, _, _, _, hlen, hnodup⟩ => ⟨hpri, hpre, hpost, hlow, hhigh, hlen, hnodup⟩⟩

theorem takeAddLink_effect (s : State) (series : Nat) (status : Option Nat) (f : LinkFields) :
    Effect s (takeAddLink s series status f).1 := by
  unfold takeAddLink
  split
  · next c st policy hc _ _ =>
    obtain ⟨-, rfl⟩ := checkLinkFields_some hc
    split
    · exact effect_refuse s _
    · split
      · exact effect_refuse s _
      · next slot hslot =>
        split
        · exact effect_refuse s _
        · next hnone =>
          exact effect_settled (.linkAdded slot _ hslot (linkOfSeries_none_of_not_isSome hnone) (newLink_wf series st policy f))
            (sameTables_settle _) rfl
  · exact effect_refuse s _

theorem takeAmendLink_effect (s : State) (h : Handle) (f : LinkFields) : Effect s (takeAmendLink s h f).1 := by
  unfold takeAmendLink
  split
  · next c policy hc _ =>
    obtain ⟨-, rfl⟩ := checkLinkFields_some hc
    split
    · exact effect_refuse s _
    · exact effect_settled (.relinked h.slot _ (amendedLink_keeps policy f)) (sameTables_settle _) rfl
  · exact effect_refuse s _

theorem setStatus_keeps (st : LinkStatus) : KeepsLink fun x => { x with status := st } := fun _ => ⟨rfl, rfl, id⟩

theorem takeSetLinkStatus_effect (s : State) (h : Handle) (status : Nat) : Effect s (takeSetLinkStatus s h status).1 := by
  unfold takeSetLinkStatus
  split
  · next st _ =>
    split
    · exact effect_refuse s _
    · exact effect_settled (.relinked h.slot _ (setStatus_keeps st)) (sameTables_settle _) rfl
  · exact effect_refuse s _

theorem takeRemoveLink_effect (s : State) (h : Handle) (disposal : Nat) : Effect s (takeRemoveLink s h disposal).1 := by
  unfold takeRemoveLink
  split
  · split
    · exact effect_refuse s _
    · next l hl => exact effect_settled (.unlinked h l false (checkLink_ok hl).2.2) (sameTables_settle _) rfl
  · split
    · exact effect_refuse s _
    · next l hl => exact effect_settled (.unlinked h l true (checkLink_ok hl).2.2) (sameTables_settle_markStale _) rfl
  · exact effect_refuse s _

theorem clearNotes_keeps : KeepsLink fun x => { x with noteLimit := false, noteTableFull := false } :=
  fun _ => ⟨rfl, rfl, id⟩

theorem takeReadLink_effect (s : State) (h : Handle) : Effect s (takeReadLink s h).1 := by
  unfold takeReadLink
  split
  · exact effect_refuse s _
  · exact effect_settled (.relinked h.slot _ clearNotes_keeps) (sameTables_settle _) rfl

theorem takeListLinks_effect (s : State) (statuses : Byte) (noted : Bool) (start : Nat) :
    Effect s (takeListLinks s statuses noted start).1 := by
  unfold takeListLinks
  split
  · exact effect_refl s
  · exact effect_refuse s _

theorem takeAnnounce_effect {s : State} {f : AnnounceFields} {d : Bool} (ht : Taking s (.announce f) d) :
    Effect s (takeAnnounce s f).1 := by
  unfold takeAnnounce
  split
  · exact effect_refuse s _
  · next a ha =>
    split
    · exact effect_refuse s _
    · next hroom => exact effect_unread (.queued f d a ht ha (by omega)) rfl rfl

/-! ### The Station Clock -/

theorem slewSign_bounds (z : Int) : -1 ≤ slewSign z ∧ slewSign z ≤ 1 := by
  unfold slewSign
  split
  · omega
  · split <;> omega

theorem clockWf_slew {c : Clock} {d : Int} (hd : -128 ≤ d ∧ d ≤ 128) (h : ClockWf c) : ClockWf { c with slew := d } := by
  obtain ⟨h1, h2, h3, h4, h5, -, h7, h8⟩ := h
  exact ⟨h1, h2, h3, h4, h5, hd, h7, h8⟩

theorem clockWf_trim {c : Clock} (z : Int) (h : ClockWf c) : ClockWf { c with trim := clampTrim z } := by
  obtain ⟨h1, h2, h3, h4, -, h6, h7, h8⟩ := h
  exact ⟨h1, h2, h3, h4, by unfold clampTrim; dsimp only; omega, h6, h7, h8⟩

theorem clockWf_count {c : Clock} (h : ClockWf c) : ClockWf (countCrystal c) := by
  unfold countCrystal
  split
  · exact h
  · next hlt =>
    obtain ⟨h1, -, h3⟩ := h
    exact ⟨h1, by dsimp only; omega, h3⟩

theorem takeSetTrim_effect (s : State) (trim : Int) : Effect s (takeSetTrim s trim).1 := by
  rw [takeSetTrim_eq]
  exact effect_unread (.clocked _ rfl rfl rfl (clockWf_trim trim)) rfl rfl

theorem takeReadClock_effect (s : State) : Effect s (takeReadClock s).1 :=
  effect_settled (.clocked { s.clock with stepped := false } rfl rfl rfl id) (sameTables_settle _) rfl

/-- A mark taken as a slew is at most 128 sixty-fourths away (R163, R164). -/
theorem markKind_slewed {c : Clock} {force : Bool} {d : Int} (h : markKind c force d = .slewed) :
    c.valid = true ∧ force = false ∧ -128 ≤ d ∧ d ≤ 128 := by
  unfold markKind at h
  split at h
  · cases h
  · next hvalid =>
    split at h
    · cases h
    · next hnear =>
      simp only [Bool.or_eq_true, decide_eq_true_eq, not_or, not_lt, Bool.not_eq_true] at hnear
      exact ⟨by simpa using hvalid, hnear.1.1, hnear.1.2, hnear.2⟩

theorem takeMark_step_eq (s : State) (seconds part : Nat) :
    SameTables (reachClosePoints (setClock s (stepClock s.clock seconds part)))
      (settle (reachClosePoints (markStale (setClock s (stepClock s.clock seconds part))))) := rfl

theorem takeSetTime_effect {s : State} {seconds part force : Nat} {d : Bool} (ht : Taking s (.setTime seconds part force) d) :
    Effect s (takeSetTime s seconds part force).1 := by
  unfold takeSetTime
  split
  · next f _ =>
    split
    · next hpart =>
      dsimp only [accept]
      unfold takeMark
      split
      · next hkind =>
        exact effect_unread (.clocked _ rfl rfl rfl (clockWf_slew (markKind_slewed hkind).2.2)) rfl rfl
      · exact effect_settled (.timeSet seconds part force d ht hpart) (takeMark_step_eq s seconds part) rfl
      · exact effect_settled (.timeSet seconds part force d ht hpart) (takeMark_step_eq s seconds part) rfl
    · exact effect_refuse s _
  · exact effect_refuse s _

end Sys2Proof.Machine
end

section
/-! PROOF. The effect of each command, part 2: the Clash Planner, the Booking Table and the Window Timer. -/

namespace Sys2Proof.Machine

/-! ### The Clash Planner -/

theorem beginPass_effect (s : State) (n : Nat) (hn : n = s.planner.abandoned ∨ n ≤ Config.abandonLimit) :
    Effect s (beginPass { s with planner := { s.planner with abandoned := n } }) := effect_unread (.begun n hn) rfl rfl

theorem takePlanNow_effect (s : State) : Effect s (takePlanNow s).1 := by
  unfold takePlanNow
  split
  · exact beginPass_effect s s.planner.abandoned (.inl rfl)
  · exact effect_refl s

theorem takeReadPlan_effect (s : State) (tuner fromTime : Nat) : Effect s (takeReadPlan s tuner fromTime).1 := by
  unfold takeReadPlan
  split
  · exact effect_refl s
  · exact effect_refuse s _

theorem execStep0_effect (s : State) : ∃ t, execStep0 s = .next t ∧ Effect s t ∧ t.port = s.port := by
  unfold execStep0
  split
  · exact ⟨_, rfl, beginPass_effect s s.planner.abandoned (.inl rfl), rfl⟩
  · exact ⟨_, rfl, effect_refl s, rfl⟩

theorem execPassAbandon_effect (s : State) : ∃ t, execPassAbandon s = .next t ∧ Effect s t ∧ t.port = s.port := by
  unfold execPassAbandon
  split
  · next hdue =>
    have hcount : s.planner.abandoned < Config.abandonLimit := ((abandonDue_iff s).mp hdue).2.2.2
    exact ⟨_, rfl, beginPass_effect s (s.planner.abandoned + 1) (.inr hcount), rfl⟩
  · exact ⟨_, rfl, effect_refl s, rfl⟩

theorem execBookingStep_effect (s : State) : ∃ t, execBookingStep s = .next t ∧ Effect s t ∧ t.port = s.port := by
  unfold execBookingStep
  split
  · exact ⟨_, rfl, effect_refl s, rfl⟩
  · next p hp =>
    split
    · exact ⟨_, rfl, effect_refl s, rfl⟩
    · split
      · next hdue =>
        split
        · exact ⟨_, rfl, effect_refl s, rfl⟩
        · next e he => exact ⟨_, rfl, effect_unread (.stepped p e hp hdue he) rfl rfl, rfl⟩
      · exact ⟨_, rfl, effect_refl s, rfl⟩

theorem execInstall_effect (s : State) : ∃ t, execInstall s = .next t ∧ Effect s t ∧ t.port = s.port := by
  unfold execInstall
  split
  · exact ⟨_, rfl, effect_refl s, rfl⟩
  · next p hp =>
    split
    · exact ⟨_, rfl, effect_refl s, rfl⟩
    · split
      · exact ⟨_, rfl, effect_settled (.installed p hp) (sameTables_settle _) rfl, rfl⟩
      · exact ⟨_, rfl, effect_refl s, rfl⟩

/-! ### The Booking Table -/

/-- Fields of ADD_BOOKING that pass the check are accepted, and stored clamped. -/
theorem checkAdd_some {f c : AddBookingFields} (h : checkAddBooking f = some c) : AddAccepted f ∧ c = clampedAdd f := by
  by_cases hf : AddAccepted f
  · rw [checkAdd_ok hf] at h; injection h with h; exact ⟨hf, h.symm⟩
  · rw [checkAdd_bad hf] at h; cases h

theorem takeAddBooking_effect {s : State} {f : AddBookingFields} {d : Bool} (ht : Taking s (.addBooking f) d) :
    Effect s (takeAddBooking s f).1 := by
  unfold takeAddBooking
  split
  · exact effect_refuse s _
  · next c hc =>
    obtain ⟨haccepted, rfl⟩ := checkAdd_some hc
    split
    · exact effect_refuse s _
    · next slot hslot =>
      split
      · exact effect_refuse s _
      · next hnew =>
        split
        · exact effect_refuse s _
        · exact effect_settled
            (.booked slot _ hslot (.manual f d ht haccepted (Bool.eq_false_iff.mpr hnew)) rfl)
            (sameTables_settle_markStale _) rfl

/-- Fields of AMEND_BOOKING that pass the check are accepted; with follow judged by a showing in use they are the clamped
ones. -/
theorem checkAmend_some {f c : AmendBookingFields} (h : checkAmendBooking f = some c) :
    AmendAccepted f ∧ ∀ u, { c with follow := followFor (amendShowing c u) c.follow } = clampedAmend u f := by
  by_cases hf : AmendAccepted f
  · rw [checkAmend_ok hf] at h; injection h with h; subst h
    exact ⟨hf, fun u => clampedAmend_eq u f⟩
  · rw [checkAmend_bad hf] at h; cases h

/-- Two writes of one slot are one. -/
theorem updateBooking_twice (s : State) (i : Nat) (b c : Booking) :
    (updateBooking (updateBooking s i fun _ => b) i fun _ => c) = updateBooking s i fun _ => c := by
  unfold updateBooking
  congr 1
  apply List.ext_getElem?
  intro j
  simp only [List.getElem?_modify]
  by_cases hj : i = j
  · subst hj
    cases s.bookings[i]? with
    | none => rfl
    | some sl => cases hb : sl.booking <;> simp [hb]
  · simp [hj]

theorem updateBooking_self {s : State} {h : Handle} {b : Booking} (hb : (h, b) ∈ occupied s) :
    (updateBooking s h.slot fun _ => b) = s := by
  rw [← updateBooking_eq_const (fun x => x) hb]
  unfold updateBooking
  have hid : (fun sl : BookingSlot => { sl with booking := sl.booking.map fun x => x }) = id := by
    funext sl; cases sl; simp
  rw [hid, List.modify_id]

/-- The record written to an occupied slot stands there. -/
theorem occupied_written {s : State} {h : Handle} {b : Booking} (c : Booking) (hb : (h, b) ∈ occupied s) :
    (h, c) ∈ occupied (updateBooking s h.slot fun _ => c) := by
  rw [mem_occupied] at hb ⊢
  rw [updateBooking_slot, if_pos rfl, hb]; rfl

/-- Only a running booking's close is more than nothing, and it ends as R144 and R145 say. -/
theorem closeBooking_changes {s0 x : State} {h : Handle} {b : Booking} (hb : (h, b) ∈ occupied x) :
    ∃ y, Changes s0 x y ∧ SameTables y (closeBooking x h b) := by
  unfold closeBooking
  split
  · next hst =>
    exact ⟨_, .finished h b .failed (some .noConfirm) hb (by rw [hst]; rfl), rfl⟩
  · next r hst hr =>
    split
    · next hg =>
      refine ⟨_, .edited h b _ hb (.extended r hst hr hg), ?_⟩
      rw [← updateBooking_eq_const (extended x r) hb]
      rfl
    · exact ⟨_, .finished h b .completed none hb (by rw [hst]; rfl), rfl⟩
  · next hst _ =>
    exact ⟨_, .finished h b .completed none hb (by rw [hst]; rfl), rfl⟩
  all_goals exact ⟨x, .none, rfl⟩

/-- Without a running placement, and while the close event is due, no end is computed. -/
theorem retimed_idle {x : State} {b : Booking} (newPost : Option Nat) (h : b.running = none ∨ b.closeReached = true) :
    retimed x newPost b = b := by
  unfold retimed
  split
  · rfl
  · next r hr =>
    rcases h with h | h
    · rw [hr] at h; cases h
    · rw [if_pos h]

theorem moveEnd_idle {x : State} {h : Handle} {b : Booking} (newPost : Option Nat)
    (hidle : b.running = none ∨ b.closeReached = true) : moveEnd x h b newPost = x := by
  unfold moveEnd
  split
  · rfl
  · next r hr =>
    rcases hidle with hnone | hdue
    · rw [hr] at hnone; cases hnone
    · rw [if_pos hdue]

/-- The record of a running booking whose close event is not due, with its end computed again. -/
theorem retimed_running {x : State} {b : Booking} {r : RunningPlacement} (newPost : Option Nat) (hr : b.running = some r)
    (hc : b.closeReached = false) {r1 : RunningPlacement} (hr1 : r1 = { r with postAllowance := newPost.getD r.postAllowance }) :
    retimed x newPost b =
      { b with running := some { r1 with closePoint := closePointOf b r1 }, closeReached := reached x (closePointOf b r1) } := by
  subst hr1
  simp only [retimed, hr, hc, Bool.false_eq_true, if_false]

theorem moveEnd_running {x : State} {h : Handle} {b : Booking} {r : RunningPlacement} (newPost : Option Nat)
    (hr : b.running = some r) (hc : b.closeReached = false) {r1 : RunningPlacement}
    (hr1 : r1 = { r with postAllowance := newPost.getD r.postAllowance }) :
    moveEnd x h b newPost =
      if reached x (closePointOf b r1) then
        closeBooking (updateBooking x h.slot fun _ => retimed x newPost b) h (retimed x newPost b)
      else markStaleIf (closePointOf b r1 != r.closePoint) (updateBooking x h.slot fun _ => retimed x newPost b) := by
  rw [retimed_running newPost hr hc hr1]
  subst hr1
  simp only [moveEnd, hr, hc, Bool.false_eq_true, if_false]

/-- An end move writes the record with its end computed again, and closes the booking when the new end is reached. -/
theorem moveEnd_changes {s0 x : State} {h : Handle} {b : Booking} (newPost : Option Nat) (hb : (h, b) ∈ occupied x) :
    ∃ y, Changes s0 (updateBooking x h.slot fun _ => retimed x newPost b) y ∧ SameTables y (moveEnd x h b newPost) := by
  by_cases hidle : b.running = none ∨ b.closeReached = true
  · rw [retimed_idle newPost hidle, moveEnd_idle newPost hidle, updateBooking_self hb]
    exact ⟨x, .none, rfl⟩
  · obtain ⟨hsome, hc⟩ := not_or.mp hidle
    obtain ⟨r, hr⟩ := Option.ne_none_iff_exists'.mp hsome
    rw [moveEnd_running newPost hr (Bool.eq_false_iff.mpr hc) rfl]
    split
    · exact closeBooking_changes (occupied_written _ hb)
    · exact ⟨_, .none, by rw [markStaleIf_eq]; rfl⟩

theorem retimed_updateBooking (x : State) (i : Nat) (c b : Booking) (newPost : Option Nat) :
    retimed (updateBooking x i fun _ => c) newPost b = retimed x newPost b := rfl

/-- A running booking refitted, and then its end moved. -/
theorem effect_refitted {s x t y : State} {h : Handle} {b c : Booking} (hx : Relation.ReflTransGen (Prepares s) s x)
    (hb : (h, b) ∈ occupied x) (hc : Refit s x h b c) (hy : Changes s (updateBooking x h.slot fun _ => c) y)
    (ht : SameTables y t) : Effect s (settle t) :=
  ⟨⟨_, y, hx.tail (.refitted h b c hb hc), hy, by unfold SameTables at ht ⊢; rw [ht]; rfl⟩, fun _ => settle_settled t⟩

/-- An amend of a running booking refits it, and closes it when its new end is reached. -/
theorem amendRunning_changes {s0 x : State} {h : Handle} {b : Booking} (c : AmendBookingFields) (hb : (h, b) ∈ occupied x) :
    ∃ y, Changes s0
        (updateBooking x h.slot fun _ =>
          if showingNamed b (usedOf b) != amendShowing c (usedOf b) || b.postPad != c.postPad then
            retimed x (if b.postPad != c.postPad then some c.postPad else none) (amended x h b c)
          else amended x h b c) y ∧
      SameTables y (amendRunning x h b c) := by
  unfold amendRunning
  dsimp only
  split
  · have hmove := moveEnd_changes (s0 := s0) (if b.postPad != c.postPad then some c.postPad else none)
      (occupied_written (amended x h b c) hb)
    rw [updateBooking_twice, retimed_updateBooking] at hmove
    exact hmove
  · exact ⟨_, .none, rfl⟩

theorem amendScheduled_effect {s : State} {h : Handle} {b : Booking} {f : AmendBookingFields} {d : Bool}
    (ht : Taking s (.amendBooking h f) d) (hf : AmendAccepted f) (hb : (h, b) ∈ occupied s) (hst : b.state = .scheduled)
    (hnew : duplicates s (some h.slot) (clampedAmend .primary f).primary (clampedAmend .primary f).alternative = false) :
    Effect s (settle (amendScheduled s h b (clampedAmend .primary f))) := by
  unfold amendScheduled
  exact effect_settled (.edited h b _ hb (.rescheduled f d _ hst ht hf hnew)) (sameTables_settle_markStaleIf _ _) rfl

theorem takeAmendBooking_effect {s : State} {h : Handle} {f : AmendBookingFields} {d : Bool}
    (ht : Taking s (.amendBooking h f) d) : Effect s (takeAmendBooking s h f).1 := by
  unfold takeAmendBooking
  split
  · exact effect_refuse s _
  · next c hc =>
    obtain ⟨hf, hclamped⟩ := checkAmend_some hc
    split
    · exact effect_refuse s _
    · next b hok =>
      have hb := occupied_of_names (checkBooking_ok hok)
      split
      · next hst =>
        have hstored : { c with follow := followFor (some c.primary) c.follow } = clampedAmend .primary f := hclamped .primary
        rw [hstored]
        dsimp only
        split
        · exact effect_refuse s _
        · next hnew => exact amendScheduled_effect ht hf hb hst (Bool.eq_false_iff.mpr hnew)
      · split
        · next hrun =>
          simp only [hclamped (usedOf b)]
          split
          · next hallowed =>
            obtain ⟨y, hy, hsame⟩ := amendRunning_changes (s0 := s) (clampedAmend (usedOf b) f) hb
            exact effect_refitted .refl hb (.amended f d hrun ht hf hallowed) hy hsame
          · exact effect_refuse s _
        · exact effect_refuse s _

/-- The entry of a booking to a finished state, after which the levels are settled. -/
theorem effect_finished {s : State} {h : Handle} {b : Booking} {st : BookingState} {reason : Option FinishReason}
    (hb : (h, b) ∈ occupied s) (hm : mayFinish b.state st reason = true) :
    Effect s (settle (finishBooking s h b st reason)) :=
  effect_settled (.finished h b st reason hb hm) (sameTables_settle _) rfl

theorem takeWithdraw_effect (s : State) (h : Handle) : Effect s (takeWithdraw s h).1 := by
  unfold takeWithdraw
  split
  · exact effect_refuse s _
  · next b hok =>
    have hb := occupied_of_names (checkBooking_ok hok)
    split
    · exact effect_settled (.freed h.slot) (sameTables_settle_markStale _) rfl
    · next hst => exact effect_finished hb (by rw [hst]; rfl)
    · next hst => exact effect_finished hb (by rw [hst]; rfl)
    all_goals exact effect_settled (.freed h.slot) (sameTables_settle _) rfl

theorem takeReadBooking_effect (s : State) (h : Handle) : Effect s (takeReadBooking s h).1 := by
  unfold takeReadBooking
  split
  · exact effect_refuse s _
  · exact effect_refl s

theorem takeList_effect (s : State) (f : ListFields) : Effect s (takeList s f).1 := by
  unfold takeList
  split
  · split
    · exact effect_refl s
    · exact effect_refuse s _
  · exact effect_refuse s _

theorem takeFind_effect (s : State) (channel event : Nat) : Effect s (takeFind s channel event).1 := by
  rw [takeFind_state]; exact effect_refl s

/-! ### The Window Timer -/

theorem takeConfirm_effect (s : State) (h : Handle) : Effect s (takeConfirm s h).1 := by
  unfold takeConfirm
  split
  · exact effect_refuse s _
  · next b hok =>
    split
    · next hst =>
      exact effect_edited confirmed (occupied_of_names (checkBooking_ok hok)) (.confirmed hst) (sameTables_settle _) rfl
    · exact effect_refuse s _

theorem takeDecline_effect (s : State) (h : Handle) : Effect s (takeDecline s h).1 := by
  unfold takeDecline
  split
  · exact effect_refuse s _
  · next b hok =>
    split
    · next hst => exact effect_finished (occupied_of_names (checkBooking_ok hok)) (by rw [hst]; rfl)
    · exact effect_refuse s _

theorem takeStop_effect (s : State) (h : Handle) : Effect s (takeStop s h).1 := by
  unfold takeStop
  split
  · exact effect_refuse s _
  · next b hok =>
    split
    · next hrun =>
      refine effect_finished (occupied_of_names (checkBooking_ok hok)) ?_
      rcases (isRunning_iff b.state).mp hrun with hst | hst <;> rw [hst] <;> rfl
    · exact effect_refuse s _

/-- A Timer event taken or not: the port stands, and the effect is that of the event when it is due. -/
theorem onTimer_effect {s : State} {slot : Nat} {due : Booking → Bool} {take : Handle → Booking → State}
    (h : ∀ g b, (g, b) ∈ occupied s → due b = true → Effect s (settle (take g b)) ∧ (take g b).port = s.port) :
    ∃ t, onTimer s slot due take = .next t ∧ Effect s t ∧ t.port = s.port := by
  unfold onTimer
  split
  · next b hb =>
    have hocc : ((⟨slot, tagAt s slot⟩ : Handle), b) ∈ occupied s :=
      (mem_occupied s _ b).mpr ((bookingAt_eq_some s slot b).mp hb)
    split
    · next hdue => exact ⟨_, rfl, (h _ b hocc hdue).1, (h _ b hocc hdue).2⟩
    · exact ⟨_, rfl, effect_refl s, rfl⟩
  · exact ⟨_, rfl, effect_refl s, rfl⟩

theorem finishBooking_port (s : State) (h : Handle) (b : Booking) (st : BookingState) (reason : Option FinishReason) :
    (finishBooking s h b st reason).port = s.port := by rw [finishBooking_frame]

theorem execConfirmExpiry_effect (slot : Nat) (s : State) :
    ∃ t, execConfirmExpiry slot s = .next t ∧ Effect s t ∧ t.port = s.port := by
  refine onTimer_effect fun g b hb hdue => ⟨effect_finished hb ?_, finishBooking_port s g b _ _⟩
  simp only [expiryDue, Bool.and_eq_true, beq_iff_eq] at hdue
  rw [hdue.1]; rfl

theorem execLapseEvent_effect (slot : Nat) (s : State) :
    ∃ t, execLapseEvent slot s = .next t ∧ Effect s t ∧ t.port = s.port := by
  refine onTimer_effect fun g b hb hdue => ⟨effect_finished hb ?_, finishBooking_port s g b _ _⟩
  simp only [lapseDue, Bool.and_eq_true, beq_iff_eq] at hdue
  rw [hdue.1]; rfl

theorem closeBooking_port (s : State) (h : Handle) (b : Booking) : (closeBooking s h b).port = s.port := by
  unfold closeBooking
  split
  · exact finishBooking_port s h b _ _
  · split
    · rfl
    · exact finishBooking_port s h b _ _
  · exact finishBooking_port s h b _ _
  all_goals rfl

theorem execCloseEvent_effect (slot : Nat) (s : State) :
    ∃ t, execCloseEvent slot s = .next t ∧ Effect s t ∧ t.port = s.port := by
  refine onTimer_effect fun g b hb _ => ⟨?_, closeBooking_port s g b⟩
  obtain ⟨y, hy, hsame⟩ := closeBooking_changes (s0 := s) hb
  exact effect_settled hy (by unfold SameTables at hsame ⊢; rw [hsame]; rfl) rfl

/-- A preempted hold was SOFT, so that the FIRM holds stand (R44). -/
theorem firmHold_dropSoft {s : State} {t : Tuner} (hsoft : (softHold s t).isSome = true) (r : DropReason) (u : Tuner) :
    firmHold (dropHold s t r) u = firmHold s u := by
  obtain ⟨hold, hhold⟩ := Option.isSome_iff_exists.mp hsoft
  obtain ⟨hat, hkind⟩ := (softHold_eq_some s t hold).mp hhold
  unfold firmHold
  rw [dropHold_at]
  split
  · next hu => rw [hu.1, hat]; simp [Option.filter, hkind]
  · rfl

theorem openCheck_of_firmHold {s x : State} {slot : Nat} {p : Placement} {key : MuxKey}
    (hfirm : firmHold x p.tuner = firmHold s p.tuner) (hocc : x.bookings = s.bookings) (hclock : x.clock = s.clock)
    (hpolicy : x.policy = s.policy) : openCheck x slot p key = openCheck s slot p key := by
  unfold openCheck countedOn runningOn occupied now
  rw [hfirm, hocc, hclock, hpolicy]

theorem openBooking_effect {s : State} {h : Handle} {b : Booking} {p : Placement} (hb : (h, b) ∈ occupied s)
    (hp : currentPlacement b = some p) : Effect s (settle (openBooking s h b p)) := by
  have hheld : Effect s (settle (updateBooking s h.slot fun x => { x with heldBack := true })) :=
    effect_edited _ hb (.marked true b.clashMark) (sameTables_settle _) rfl
  unfold openBooking
  split
  · next key hkey =>
    split
    · next hcheck =>
      have hstart : Effect s (settle (updateBooking s h.slot (started s p key))) :=
        effect_edited _ hb (.started p key hp hkey hcheck) (sameTables_settle _) rfl
      unfold preempt
      split
      · next hold hsoft =>
        split
        · have hsome : (softHold s p.tuner).isSome = true := by rw [hsoft]; rfl
          have hocc : (h, b) ∈ occupied (dropHold s p.tuner .preempted) := by
            rw [mem_occupied, dropHold_bookings]; exact (mem_occupied s h b).mp hb
          have hstarted : started s p key = started (dropHold s p.tuner .preempted) p key := by
            rw [dropHold_frame]; rfl
          have hkey' : openKey (dropHold s p.tuner .preempted) b p = some key := by
            rw [dropHold_frame]; exact hkey
          have hcheck' : openCheck (dropHold s p.tuner .preempted) h.slot p key = true := by
            rw [openCheck_of_firmHold (firmHold_dropSoft hsome .preempted p.tuner) (dropHold_bookings s _ _)
              (dropHold_clock s _ _) (dropHold_policy s _ _)]
            exact hcheck
          rw [hstarted, updateBooking_eq_const _ hocc]
          exact ⟨⟨_, _, .single (.preempted p.tuner hsome), .edited h b _ hocc (.started p key hp hkey' hcheck'), rfl⟩,
            fun _ => settle_settled _⟩
        · exact hstart
      · exact hstart
    · exact hheld
  · exact hheld

theorem openBooking_port (s : State) (h : Handle) (b : Booking) (p : Placement) : (openBooking s h b p).port = s.port := by
  unfold openBooking
  split
  · split
    · unfold preempt
      split
      · split
        · exact dropHold_port s p.tuner .preempted
        · rfl
      · rfl
    · rfl
  · rfl

theorem execOpenEvent_effect (slot : Nat) (s : State) :
    ∃ t, execOpenEvent slot s = .next t ∧ Effect s t ∧ t.port = s.port := by
  refine onTimer_effect fun g b hb _ => ?_
  split
  · next p hp => exact ⟨openBooking_effect hb hp, openBooking_port s g b p⟩
  · exact ⟨effect_settled .none (sameTables_settle _) rfl, rfl⟩

theorem execTick_effect (s : State) : ∃ t, execTick s = .next t ∧ Effect s t ∧ t.port = s.port := by
  unfold execTick
  split
  · exact ⟨_, rfl, effect_refl s, rfl⟩
  · next hdue =>
    exact ⟨_, rfl, effect_settled (.ticked (Bool.eq_false_iff.mpr hdue)) (sameTables_settle _) rfl, rfl⟩

theorem execCrystalCount_effect (s : State) : ∃ t, execCrystalCount s = .next t ∧ Effect s t ∧ t.port = s.port := by
  unfold execCrystalCount
  split
  · exact ⟨_, rfl, effect_refl s, rfl⟩
  · refine ⟨_, rfl, effect_unread (.clocked _ ?_ ?_ ?_ clockWf_count) rfl ?_, rfl⟩
    all_goals unfold countCrystal; split <;> rfl

end Sys2Proof.Machine
end

section
/-! PROOF. The effect of each command, part 3: the matcher, the pins, and all commands together. -/

namespace Sys2Proof.Machine

/-! ### The Series Matcher -/

theorem carries_some {b : Booking} {p : Nat × Nat} {u : ShowingUsed} (h : carries b p = some u) : pairNamed b u = some p := by
  unfold carries at h
  split at h
  · injection h with h; subst h; assumption
  · split at h
    · injection h with h; subst h; assumption
    · cases h

/-- What the search for a pair finds is a booking with a showing that carries it. -/
theorem findPair_some {s : State} {p : Nat × Nat} {h : Handle} {b : Booking} {u : ShowingUsed}
    (hf : findPair s p = some (h, b, u)) : (h, b) ∈ occupied s ∧ pairNamed b u = some p := by
  obtain ⟨e, he, hm⟩ := List.exists_of_findSome?_eq_some hf
  simp only [Option.map_eq_some_iff, Prod.mk.injEq] at hm
  obtain ⟨v, hv, rfl, rfl, rfl⟩ := hm
  exact ⟨he, carries_some hv⟩

theorem findPair_none_iff (s : State) (p : Nat × Nat) : findPair s p = none ↔ ¬ PairStands s none (some p) := by
  refine ⟨fun hf hstands => ?_, findPair_none s p⟩
  rw [← pairStands_iff] at hstands
  obtain ⟨e, he, hc⟩ := List.any_eq_true.mp hstands
  obtain ⟨u, hu⟩ := Option.isSome_iff_exists.mp (Bool.and_eq_true _ _ ▸ hc).2
  have hnone := List.findSome?_eq_none_iff.mp hf e he
  simp [hu] at hnone

theorem linkOfSeries_some {s : State} {series : Nat} {h : Handle} {l : Link} (hf : linkOfSeries s series = some (h, l)) :
    linkOf s h = some l ∧ l.seriesId = series :=
  ⟨(linkOf_iff_occupied s h l).mpr (List.mem_of_find?_eq_some hf), by simpa using List.find?_some hf⟩

/-- A link after a change of its record. -/
theorem linkOf_updateLink {s : State} {h : Handle} {l : Link} (f : Link → Link) (hl : linkOf s h = some l) :
    linkOf (updateLink s h.slot f) h = some (f l) := by
  rw [linkOf_eq_some] at hl ⊢
  rw [updateLink_slot, if_pos rfl, hl]; rfl

theorem announceRunning_eq (x : State) (h : Handle) (b : Booking) (u : ShowingUsed) (a : Announcement) :
    announceRunning x h b u a =
      if showingNamed (withShowing b u (announcedDuration a)) u != showingNamed b u then
        moveEnd (updateBooking x h.slot fun _ => reshown x h b u (announcedDuration a) a.status) h
          (reshown x h b u (announcedDuration a) a.status) none
      else updateBooking x h.slot fun _ => reshown x h b u (announcedDuration a) a.status := rfl

/-- The announcement of a showing already booked (R69 to R72), after the preparations so far. -/
theorem announceKnown_effect {s x : State} {h : Handle} {b : Booking} {u : ShowingUsed} {a : Announcement}
    (hx : Relation.ReflTransGen (Prepares s) s x) (ha : a ∈ s.queue) (hb : (h, b) ∈ occupied x)
    (hp : pairNamed b u = some (a.channel, a.event)) : Effect s (settle (announceKnown x h b u a)) := by
  have hnothing : Effect s (settle x) := ⟨⟨x, x, hx, .none, rfl⟩, fun _ => settle_settled _⟩
  have hrunning (hrun : b.state.isRunning = true) :
      Effect s (settle (if usedOf b = u then announceRunning x h b u a else x)) := by
    split
    · next hused =>
      subst hused
      have hrefit := Refit.announced (s0 := s) (x := x) (h := h) a hrun ha hp
      rw [announceRunning_eq]
      split
      · next hchanged =>
        obtain ⟨y, hy, hsame⟩ := moveEnd_changes (s0 := s) none
          (occupied_written (reshown x h b (usedOf b) (announcedDuration a) a.status) hb)
        rw [updateBooking_twice, retimed_updateBooking] at hy
        exact effect_refitted hx hb ((if_pos hchanged ▸ hrefit :)) hy hsame
      · next hsame => exact effect_refitted hx hb ((if_neg hsame ▸ hrefit :)) .none rfl
    · exact hnothing
  unfold announceKnown
  split
  · next hst =>
    unfold announceScheduled
    exact ⟨⟨x, _, hx, .edited h b _ hb (.announced a u _ hst ha hp), sameTables_settle_markStaleIf _ _⟩,
      fun _ => settle_settled _⟩
  · next hst => exact hrunning (by rw [hst]; rfl)
  · next hst => exact hrunning (by rw [hst]; rfl)
  all_goals exact hnothing

theorem setLimitNote_keeps : KeepsLink fun l => { l with noteLimit := true } := fun _ => ⟨rfl, rfl, id⟩

theorem setTableFullNote_keeps : KeepsLink fun l => { l with noteTableFull := true } := fun _ => ⟨rfl, rfl, id⟩

/-- Step 5 for an episode that is not in the history (R79 to R82). -/
theorem bookEpisode_changes {s0 x : State} {h : Handle} {l : Link} {a : Announcement} (ha : a ∈ s0.queue)
    (hl : linkOf x h = some { l with status := .active }) (hp : ¬ PairStands x none (some (a.channel, a.event)))
    (hnew : ∀ e, a.episode = some e → e ∉ l.history) :
    ∃ y, Changes s0 x y ∧ SameTables y (settle (bookEpisode x h l a)) := by
  unfold bookEpisode
  split
  · exact ⟨_, .relinked h.slot _ setLimitNote_keeps, rfl⟩
  · split
    · exact ⟨_, .relinked h.slot _ setTableFullNote_keeps, rfl⟩
    · next slot hslot =>
      split
      · exact ⟨_, .relinked h.slot _ setLimitNote_keeps, rfl⟩
      · next ids hids =>
        exact ⟨_, .bookedEpisode slot h l a ids hslot (.series h l a ha hl hp hnew) hl hnew hids, rfl⟩

theorem scheduledEpisode_some {s : State} {h bh : Handle} {episode : Nat} {b : Booking}
    (hf : scheduledEpisode s h episode = some (bh, b)) :
    (bh, b) ∈ occupied s ∧ b.link = some h ∧ b.state = .scheduled ∧ b.episode = some episode := by
  have hmem := List.mem_filter.mp (List.mem_of_find?_eq_some hf)
  have hfound := List.find?_some hf
  simp only [Bool.and_eq_true, beq_iff_eq] at hfound hmem
  exact ⟨hmem.1, hmem.2, hfound⟩

/-- Step 3 (R76, R77). -/
theorem attachAlternative_changes {s0 x : State} (h : Handle) (episode : Nat) {a : Announcement} (ha : a ∈ s0.queue)
    (hp : ¬ PairStands x none (some (a.channel, a.event))) :
    ∃ y, Changes s0 x y ∧ SameTables y (settle (attachAlternative x h episode a)) := by
  unfold attachAlternative
  split
  · next bh b hfound =>
    obtain ⟨hb, -, hst, -⟩ := scheduledEpisode_some hfound
    split
    · next hnone =>
      rw [updateBooking_eq_const _ hb]
      exact ⟨_, .edited bh b _ hb (.attached a hst (Option.isNone_iff_eq_none.mp hnone) ha hp), rfl⟩
    · exact ⟨x, .none, rfl⟩
  · exact ⟨x, .none, rfl⟩

/-- An episode id that the history check passes on is not in the history (R76). -/
theorem not_mem_history_of_filter {a : Announcement} {l : Link}
    (h : (a.episode.filter fun e => l.history.contains e) = none) : ∀ e, a.episode = some e → e ∉ l.history := by
  intro e he hmem
  rw [he, Option.filter_eq_none_iff] at h
  exact h e rfl (by simpa using hmem)

theorem applyToLink_changes {s0 x : State} {h : Handle} {l : Link} {a : Announcement} (ha : a ∈ s0.queue)
    (hl : linkOf x h = some { l with status := .active }) (hp : ¬ PairStands x none (some (a.channel, a.event))) :
    ∃ y, Changes s0 x y ∧ SameTables y (settle (applyToLink x h l a)) := by
  unfold applyToLink
  split
  · next e _ => exact attachAlternative_changes h e ha hp
  · next hnew =>
    split
    · exact ⟨x, .none, rfl⟩
    · exact bookEpisode_changes ha hl hp (not_mem_history_of_filter hnew)

/-- An announcement of no booked showing (R73 to R84), after the preparations so far. -/
theorem announceUnknown_effect {s x : State} {a : Announcement} (hx : Relation.ReflTransGen (Prepares s) s x)
    (ha : a ∈ s.queue) (hp : ¬ PairStands x none (some (a.channel, a.event))) :
    Effect s (settle (announceUnknown x a)) := by
  have hnothing : Effect s (settle x) := ⟨⟨x, x, hx, .none, rfl⟩, fun _ => settle_settled _⟩
  unfold announceUnknown
  split
  · next h l hfound =>
    obtain ⟨series, -, hseries⟩ := Option.bind_eq_some_iff.mp hfound
    have hl := linkOf_updateLink (fun k => { k with status := .active }) (linkOfSeries_some hseries).1
    have hawake := hx.tail (.relinked h.slot _ (setStatus_keeps .active))
    unfold announceToLink
    dsimp only
    split
    · exact hnothing
    · split
      · obtain ⟨y, hy, hsame⟩ := applyToLink_changes ha hl hp
        exact ⟨⟨_, y, hawake, hy, hsame⟩, fun _ => settle_settled _⟩
      · exact ⟨⟨_, _, hawake, .none, rfl⟩, fun _ => settle_settled _⟩
  · exact hnothing

theorem announceKnown_port (x : State) (h : Handle) (b : Booking) (u : ShowingUsed) (a : Announcement) :
    (announceKnown x h b u a).port = x.port := by
  have hrunning : (if usedOf b = u then announceRunning x h b u a else x).port = x.port := by
    split
    · unfold announceRunning
      dsimp only
      split
      · rw [moveEnd_frame]; rfl
      · rfl
    · rfl
  unfold announceKnown
  split
  · exact markStaleIf_port _ _
  · exact hrunning
  · exact hrunning
  all_goals rfl

theorem announceUnknown_port (x : State) (a : Announcement) : (announceUnknown x a).port = x.port := by
  unfold announceUnknown announceToLink applyToLink attachAlternative bookEpisode
  dsimp only
  repeat' split
  all_goals rfl

theorem execMatcherEvent_effect (s : State) : ∃ t, execMatcherEvent s = .next t ∧ Effect s t ∧ t.port = s.port := by
  unfold execMatcherEvent
  split
  · next a rest hq =>
    have hx := Relation.ReflTransGen.single (Prepares.popped (s0 := s) a rest hq)
    have ha : a ∈ s.queue := by rw [hq]; exact List.mem_cons_self
    refine ⟨_, rfl, ?_⟩
    unfold applyAnnouncement
    split
    · next h b u hfound =>
      obtain ⟨hb, hp⟩ := findPair_some hfound
      exact ⟨announceKnown_effect hx ha hb hp, announceKnown_port _ h b u a⟩
    · next hfound =>
      exact ⟨announceUnknown_effect hx ha ((findPair_none_iff _ _).mp hfound), announceUnknown_port _ a⟩
  · exact ⟨_, rfl, effect_refl s, rfl⟩

/-! ### The requests together -/

/-- What the block that owns a request makes of it at its completion event. -/
def taken (s : State) : Request → State × Answer
  | .addBooking f => takeAddBooking s f
  | .amendBooking h f => takeAmendBooking s h f
  | .withdraw h => takeWithdraw s h
  | .readBooking h => takeReadBooking s h
  | .list f => takeList s f
  | .find channel event => takeFind s channel event
  | .setChannel channel mux band => takeSetChannel s channel mux band
  | .removeChannel channel => takeRemoveChannel s channel
  | .readChannel channel => takeReadChannel s channel
  | .setBand band eligible => takeSetBand s band eligible
  | .hold tuner channel kind => takeHold s tuner channel kind
  | .release tuner => takeRelease s tuner
  | .readHolds => accept s false (holdRecordBytes s.holds.on0 ++ holdRecordBytes s.holds.on1)
  | .addLink series status f => takeAddLink s series status f
  | .amendLink h f => takeAmendLink s h f
  | .setLinkStatus h status => takeSetLinkStatus s h status
  | .removeLink h disposal => takeRemoveLink s h disposal
  | .readLink h => takeReadLink s h
  | .listLinks statuses noted start => takeListLinks s statuses noted start
  | .announce f => takeAnnounce s f
  | .planNow => takePlanNow s
  | .readPlanner => accept s false (plannerBytes s)
  | .readPlan tuner fromTime => takeReadPlan s tuner fromTime
  | .confirm h => takeConfirm s h
  | .decline h => takeDecline s h
  | .stop h => takeStop s h
  | .setTime seconds sixtyFourths force => takeSetTime s seconds sixtyFourths force
  | .setTrim trim => takeSetTrim s trim
  | .readClock => takeReadClock s
  | .setPolicy f => takeSetPolicy s f
  | .readPolicy => accept s false (policyBytes s.policy)
  | .readCauses => accept s false (causesBytes s)
  | .setRouting r => takeSetRouting s r
  | .ackClash h => takeAckClash s h
  | .clearAll => accept (clearAll s) false []

theorem taken_effect {s : State} {r : Request} {d : Bool} (ht : Taking s r d) : Effect s (taken s r).1 := by
  cases r with
  | addBooking f => exact takeAddBooking_effect ht
  | amendBooking h f => exact takeAmendBooking_effect ht
  | withdraw h => exact takeWithdraw_effect s h
  | readBooking h => exact takeReadBooking_effect s h
  | list f => exact takeList_effect s f
  | find channel event => exact takeFind_effect s channel event
  | setChannel channel mux band => exact takeSetChannel_effect s channel mux band
  | removeChannel channel => exact takeRemoveChannel_effect s channel
  | readChannel channel => exact takeReadChannel_effect s channel
  | setBand band eligible => exact takeSetBand_effect s band eligible
  | hold tuner channel kind => exact takeHold_effect s tuner channel kind
  | release tuner => exact takeRelease_effect s tuner
  | addLink series status f => exact takeAddLink_effect s series status f
  | amendLink h f => exact takeAmendLink_effect s h f
  | setLinkStatus h status => exact takeSetLinkStatus_effect s h status
  | removeLink h disposal => exact takeRemoveLink_effect s h disposal
  | readLink h => exact takeReadLink_effect s h
  | listLinks statuses noted start => exact takeListLinks_effect s statuses noted start
  | announce f => exact takeAnnounce_effect ht
  | planNow => exact takePlanNow_effect s
  | readPlan tuner fromTime => exact takeReadPlan_effect s tuner fromTime
  | confirm h => exact takeConfirm_effect s h
  | decline h => exact takeDecline_effect s h
  | stop h => exact takeStop_effect s h
  | setTime seconds sixtyFourths force => exact takeSetTime_effect ht
  | setTrim trim => exact takeSetTrim_effect s trim
  | readClock => exact takeReadClock_effect s
  | setPolicy f => exact takeSetPolicy_effect s f
  | setRouting r => exact takeSetRouting_effect s r
  | ackClash h => exact takeAckClash_effect s h
  | clearAll => exact clearAll_effect s
  | readHolds | readPlanner | readPolicy | readCauses => exact effect_refl s

/-- The completion event of the request in process is its owner's part and then the port's (R174). -/
theorem exec_completion {s : State} {r : Request} {d : Bool} (ht : Taking s r d) :
    exec (completionOf r) s = completed r d (taken s r) := by
  cases r with
  | addBooking f => exact exec_addBooking ht
  | amendBooking h f => exact exec_amendBooking ht
  | withdraw h => exact exec_withdraw ht
  | readBooking h => exact exec_readBooking ht
  | list f => exact exec_list ht
  | find channel event => exact exec_find ht
  | setChannel channel mux band => exact exec_setChannel ht
  | removeChannel channel => exact exec_removeChannel ht
  | readChannel channel => exact exec_readChannel ht
  | setBand band eligible => exact exec_setBand ht
  | hold tuner channel kind => exact exec_hold ht
  | release tuner => exact exec_release ht
  | readHolds => exact exec_readHolds ht
  | addLink series status f => exact exec_addLink ht
  | amendLink h f => exact exec_amendLink ht
  | setLinkStatus h status => exact exec_setLinkStatus ht
  | removeLink h disposal =>
    by_cases hd : disposal = 1
    · subst hd; exact exec_removeLinkWithdraw ht (by omega)
    · simp only [completionOf, if_neg hd]; exact exec_removeLinkKeep ht hd
  | readLink h => exact exec_readLink ht
  | listLinks statuses noted start => exact exec_listLinks ht
  | announce f => exact exec_announce ht
  | planNow => exact exec_planNow ht
  | readPlanner => exact exec_readPlanner ht
  | readPlan tuner fromTime => exact exec_readPlan ht
  | confirm h => exact exec_confirm ht
  | decline h => exact exec_decline ht
  | stop h => exact exec_stop ht
  | setTime seconds sixtyFourths force => exact exec_setTime ht
  | setTrim trim => exact exec_setTrim ht
  | readClock => exact exec_readClock ht
  | setPolicy f => exact exec_setPolicy ht
  | readPolicy => exact exec_readPolicy ht
  | readCauses => exact exec_readCauses ht
  | setRouting r => exact exec_setRouting ht
  | ackClash h => exact exec_ackClash ht
  | clearAll => exact exec_clearAll ht

/-! ### The commands together -/

/-- Every request in process afterwards was in process before, or spells fields within their bytes (R173, R193). -/
def KeepsRequests (s t : State) : Prop :=
  ∀ q, t.port.inProcess = some q →
    q.request.wellFormed = true ∨ ∃ p, s.port.inProcess = some p ∧ p.request = q.request

/-- What every command does: it answers next, with an effect on the tables. -/
def Runs (s : State) (o : Out) : Prop := ∃ t, o = .next t ∧ Effect s t ∧ KeepsRequests s t

theorem runs_of_port {s : State} {o : Out} (h : ∃ t, o = .next t ∧ Effect s t ∧ t.port = s.port) : Runs s o := by
  obtain ⟨t, ho, he, hp⟩ := h
  exact ⟨t, ho, he, fun q hq => .inr ⟨q, hp ▸ hq, rfl⟩⟩

theorem completeRequest_inProcess (s : State) (q : InProcess) (a : Answer) :
    (completeRequest s q a).port.inProcess = none := by
  unfold completeRequest
  dsimp only
  split
  · rfl
  · rfl

/-- A row of the table that is a request takes the request in process when it is its own, and nothing otherwise. -/
theorem onRequest_runs {s : State} {take : Request → Option (State × Answer)}
    (h : ∀ r, take r = none ∨ take r = some (taken s r)) : Runs s (onRequest s take) := by
  cases hq : s.port.inProcess with
  | none => exact ⟨s, onRequest_idle (by simp [hq]), effect_refl s, fun q hs => .inr ⟨q, hs, rfl⟩⟩
  | some q =>
    rcases h q.request with hnone | hsome
    · exact ⟨s, onRequest_idle (by simp [hq, hnone]), effect_refl s, fun q hs => .inr ⟨q, hs, rfl⟩⟩
    · refine ⟨_, onRequest_taking (r := q.request) (d := q.discardReply) hq hsome, ?_, ?_⟩
      · exact effect_completed _ _ (taken_effect (d := q.discardReply) hq)
      · intro p hp
        rw [completeRequest_inProcess] at hp
        cases hp

end Sys2Proof.Machine
end

section
/-! PROOF. Every command answers next with its effect (O2), and the levels stay settled (O52). -/

namespace Sys2Proof.Machine

/-! ### The pins -/

theorem powerOn_settled (awake : Bool) : wakeCondition State.reset false = false ∧
    deriveOutputs { State.reset with hostAwake := awake } = resetOutputs := by
  cases awake <;> decide +kernel

theorem execPowerOnReset_runs (s : State) : Runs s (execPowerOnReset s) := by
  refine ⟨_, rfl, ⟨⟨s, _, .refl, .poweredOn, rfl⟩, fun _ => ?_⟩, fun q hq => by cases hq⟩
  exact (powerOn_settled s.hostAwake).2.symm

theorem execPortReset_runs (s : State) : Runs s (execPortReset s) := by
  unfold execPortReset
  split
  · exact ⟨s, rfl, effect_refl s, fun q hq => .inr ⟨q, hq, rfl⟩⟩
  · have hlost := fun u => dropHolds_loses (setPort s (resetThePort s.port)) u .portReset
    refine ⟨_, rfl, effect_settled (.holdsLost (dropHolds (setPort s (resetThePort s.port)) .portReset).holds hlost) ?_ rfl,
      ?_⟩
    · rw [markStaleIf_eq, dropHolds_frame (setPort s _)]; rfl
    · intro q hq
      simp only [settle_port, markStaleIf_port] at hq
      rw [dropHolds_frame] at hq
      obtain ⟨p, hp, rfl⟩ := Option.map_eq_some_iff.mp hq
      exact .inr ⟨p, hp, rfl⟩

theorem execTransactionStart_runs (s : State) : Runs s (execTransactionStart s) := by
  unfold execTransactionStart
  split
  · exact ⟨_, rfl, effect_setPort s _, fun q hq => .inr ⟨q, hq, rfl⟩⟩
  all_goals exact ⟨s, rfl, effect_refl s, fun q hq => .inr ⟨q, hq, rfl⟩⟩

/-! ### Requests that a frame spells -/

theorem fitsByte_oneAt (p : List Byte) (i : Nat) : fitsByte (oneAt p i) = true := by
  simpa [fitsByte, oneAt] using (p.getD i 0).isLt

theorem oneAt_lt (p : List Byte) (i : Nat) : oneAt p i < 256 := (p.getD i 0).isLt

theorem twoAt_lt (p : List Byte) (i : Nat) : twoAt p i < 65536 := by
  have hhigh := oneAt_lt p i
  have hlow := oneAt_lt p (i + 1)
  unfold twoAt
  omega

theorem fitsTwoBytes_twoAt (p : List Byte) (i : Nat) : fitsTwoBytes (twoAt p i) = true := by
  simpa [fitsTwoBytes] using twoAt_lt p i

theorem fitsFourBytes_fourAt (p : List Byte) (i : Nat) : fitsFourBytes (fourAt p i) = true := by
  have hhigh := twoAt_lt p i
  have hlow := twoAt_lt p (i + 2)
  exact decide_eq_true (show fourAt p i < 4294967296 by unfold fourAt; omega)

theorem fitsSignedTwoBytes_signedTwoAt (p : List Byte) (i : Nat) : fitsSignedTwoBytes (signedTwoAt p i) = true := by
  have h := twoAt_lt p i
  have hrange : -32768 ≤ signedTwoAt p i ∧ signedTwoAt p i ≤ 32767 := by
    unfold signedTwoAt
    split <;> omega
  exact Bool.and_eq_true_iff.mpr ⟨decide_eq_true hrange.1, decide_eq_true hrange.2⟩

theorem all_whenSet {α : Type} {q : α → Bool} {a : α} (present : Bool) (h : q a = true) :
    (whenSet present a).all q = true := by
  cases present
  · rfl
  · exact h

theorem optionFits_whenSet {q : Nat → Bool} {a : Nat} (present : Bool) (h : q a = true) :
    optionFits q (whenSet present a) = true := all_whenSet present h

theorem handleAt_wellFormed (p : List Byte) (i : Nat) : (handleAt p i).wellFormed = true := by
  simp [Handle.wellFormed, handleAt, fitsByte_oneAt]

theorem showingAt_wellFormed (p : List Byte) (i : Nat) : (showingAt p i).wellFormed = true := by
  simp [Showing.wellFormed, showingAt, fitsTwoBytes_twoAt, fitsFourBytes_fourAt, optionFits_whenSet]

theorem linkFieldsAt_wellFormed (p : List Byte) (flags i j : Nat) : (linkFieldsAt p flags i j).wellFormed = true := by
  simp [LinkFields.wellFormed, linkFieldsAt, fitsByte_oneAt, fitsTwoBytes_twoAt]

/-- A payload spells a request whose fields lie within their bytes (section 12.1). -/
theorem decodeRequest_wellFormed {kind : Byte} {p : List Byte} {r : Request} (h : decodeRequest kind p = some r) :
    r.wellFormed = true := by
  unfold decodeRequest at h
  split at h
  all_goals simp only [Option.some.injEq, reduceCtorEq] at h
  all_goals
    subst h
    simp [Request.wellFormed, AddBookingFields.wellFormed, AmendBookingFields.wellFormed, ListFields.wellFormed,
      AnnounceFields.wellFormed, PolicyFields.wellFormed, addBookingAt, amendBookingAt, listAt, announceAt, policyAt,
      routingAt, handleAt_wellFormed, showingAt_wellFormed, linkFieldsAt_wellFormed, fitsByte_oneAt, fitsTwoBytes_twoAt,
      fitsFourBytes_fourAt, fitsSignedTwoBytes_signedTwoAt, optionFits_whenSet, all_whenSet]

theorem judgePayload_inProcess {p : Port} {kind length : Byte} {payload : List Byte} {q : InProcess}
    (h : (judgePayload p kind length payload).inProcess = some q) :
    q.request.wellFormed = true ∨ p.inProcess = some q := by
  unfold judgePayload at h
  split at h
  · exact .inr h
  · split at h
    · exact .inr h
    · split at h
      · split at h
        · next r hr =>
          injection h with h
          subst h
          exact .inl (decodeRequest_wellFormed hr)
        · exact .inr h
      · exact .inr h

theorem judgeFrame_inProcess {p : Port} {bytes : List Byte} {q : InProcess} (h : (judgeFrame p bytes).inProcess = some q) :
    q.request.wellFormed = true ∨ p.inProcess = some q := by
  unfold judgeFrame at h
  split at h
  · exact .inr h
  · split at h
    · exact .inr h
    · split at h
      · exact .inr h
      · split at h
        · exact .inr h
        · exact judgePayload_inProcess h

theorem settleFetch_inProcess (p : Port) (t : Transaction) (n : Nat) : (settleFetch p t n).inProcess = p.inProcess := by
  unfold settleFetch
  split
  · rfl
  · split
    · rfl
    · rfl

theorem endFrame_inProcess {p : Port} {bytes : List Byte} {q : InProcess} (h : (endFrame p bytes).inProcess = some q) :
    q.request.wellFormed = true ∨ p.inProcess = some q := by
  unfold endFrame at h
  split at h
  · exact .inr h
  · have := judgeFrame_inProcess h
    rwa [settleFetch_inProcess, raiseSelect_inProcess] at this
  all_goals exact .inr h

theorem execFrameEnd_runs (mosi : List Byte) (spare : List Bool) (s : State) : Runs s (execFrameEnd mosi spare s) := by
  refine ⟨_, rfl, effect_setPort s _, fun q hq => ?_⟩
  rcases endFrame_inProcess hq with hwf | hold
  · exact .inl hwf
  · exact .inr ⟨q, hold, rfl⟩

/-! ### All commands -/

/-- Every command answers next, with an effect on the tables. -/
theorem exec_runs (i : Instr) (s : State) : Runs s (exec i s) := by
  cases i with
  | powerOnReset => exact execPowerOnReset_runs s
  | portReset => exact execPortReset_runs s
  | hostawakeChange level =>
    exact ⟨_, rfl, effect_settled (.none) rfl rfl, fun q hq => .inr ⟨q, hq, rfl⟩⟩
  | transactionStart => exact execTransactionStart_runs s
  | frameEnd mosi spare => exact execFrameEnd_runs mosi spare s
  | portresetFall => exact ⟨_, rfl, effect_setPort s _, fun q hq => .inr ⟨q, hq, rfl⟩⟩
  | matcherEvent => exact runs_of_port (execMatcherEvent_effect s)
  | step0 => exact runs_of_port (execStep0_effect s)
  | bookingStep => exact runs_of_port (execBookingStep_effect s)
  | passAbandon => exact runs_of_port (execPassAbandon_effect s)
  | install => exact runs_of_port (execInstall_effect s)
  | openEvent slot => exact runs_of_port (execOpenEvent_effect slot s)
  | confirmExpiry slot => exact runs_of_port (execConfirmExpiry_effect slot s)
  | closeEvent slot => exact runs_of_port (execCloseEvent_effect slot s)
  | lapseEvent slot => exact runs_of_port (execLapseEvent_effect slot s)
  | tick => exact runs_of_port (execTick_effect s)
  | crystalCount => exact runs_of_port (execCrystalCount_effect s)
  | removeLinkKeep | removeLinkWithdraw =>
    simp only [exec, execRemoveLinkKeep, execRemoveLinkWithdraw]
    refine onRequest_runs fun r => ?_
    cases r <;> simp [taken, em]
  | addBooking | amendBooking | withdraw | readBooking | list | find | setChannel | removeChannel | readChannel | setBand
  | hold | release | readHolds | addLink | amendLink | setLinkStatus | readLink | listLinks | announce | planNow
  | readPlanner | readPlan | confirm | decline | stop | setTime | setTrim | readClock | setPolicy | readPolicy | readCauses
  | setRouting | ackClash | clearAll =>
    simp only [exec, execAddBooking, execAmendBooking, execWithdraw, execReadBooking, execList, execFind, execSetChannel,
      execRemoveChannel, execReadChannel, execSetBand, execHold, execRelease, execReadHolds, execAddLink, execAmendLink,
      execSetLinkStatus, execReadLink, execListLinks, execAnnounce, execPlanNow, execReadPlanner, execReadPlan, execConfirm,
      execDecline, execStop, execSetTime, execSetTrim, execReadClock, execSetPolicy, execReadPolicy, execReadCauses,
      execSetRouting, execAckClash, execClearAll]
    refine onRequest_runs fun r => ?_
    cases r <;> simp [taken]

theorem exec_effect {i : Instr} {s t : State} (h : exec i s = .next t) : Effect s t := by
  obtain ⟨u, hu, he, -⟩ := exec_runs i s
  rw [hu] at h
  injection h with h
  exact h ▸ he

theorem exec_keepsRequests {i : Instr} {s t : State} (h : exec i s = .next t) : KeepsRequests s t := by
  obtain ⟨u, hu, -, hk⟩ := exec_runs i s
  rw [hu] at h
  injection h with h
  exact h ▸ hk

/-! ### The queue of commands -/

theorem prepares_pending {s x y : State} (h : Prepares s x y) : y.pending = x.pending := by
  cases h with
  | preempted t _ => exact dropHold_pending x t .preempted
  | popped | relinked | refitted => rfl

theorem finishBooking_pending (s : State) (h : Handle) (b : Booking) (st : BookingState) (reason : Option FinishReason) :
    (finishBooking s h b st reason).pending = s.pending := by rw [finishBooking_frame]

theorem changes_pending {s x y : State} (h : Changes s x y) : y.pending = x.pending := by
  cases h with
  | finished h b st reason _ _ => exact finishBooking_pending x h b st reason
  | _ => rfl

/-- What holds of a state, and what every preparation keeps, holds of the prepared state. -/
theorem prepared_keeps {P : State → Prop} {s x : State} (h : Relation.ReflTransGen (Prepares s) s x) (hs : P s)
    (hstep : ∀ y z, P y → Prepares s y z → P z) : P x := by
  induction h with
  | refl => exact hs
  | tail _ hlast ih => exact hstep _ _ ih hlast

theorem effect_pending {s t : State} (h : Effect s t) : t.pending = s.pending := by
  obtain ⟨⟨x, y, hx, hy, ht⟩, -⟩ := h
  have hprepared : x.pending = s.pending :=
    prepared_keeps (P := fun y => y.pending = s.pending) hx rfl fun _ _ hy hz => (prepares_pending hz).trans hy
  calc t.pending = y.pending := by rw [ht]
    _ = x.pending := changes_pending hy
    _ = s.pending := hprepared

/-- Settles O2, by what every command does. -/
theorem everyCommandAnswersNext : Obligations.EveryCommandAnswersNext := by
  intro c s
  obtain ⟨t, ht, he, -⟩ := exec_runs c s
  exact ⟨t, ht, effect_pending he⟩

/-- Settles O1: the step is the front command's, on the queue's rest. -/
theorem stepRunsTheFrontCommand : Obligations.StepRunsTheFrontCommand := by
  refine ⟨fun s c rest hp => ?_, fun s hp => ?_⟩
  · simp only [step, hp]
  · simp only [step, hp]

/-! ### What every step keeps -/

/-- A law that does not read the queue of commands, and that every command keeps, is kept by every step. -/
theorem step_keeps {I : State → Prop} (hpending : ∀ s c rest, s.pending = c :: rest → I s → I { s with pending := rest })
    (hexec : ∀ i s t, I s → exec i s = .next t → I t) : ∀ s t, I s → step s = .next t → I t := by
  intro s t hs ht
  cases hp : s.pending with
  | nil =>
    rw [stepRunsTheFrontCommand.2 s hp] at ht
    injection ht with ht
    exact ht ▸ hs
  | cons c rest =>
    rw [stepRunsTheFrontCommand.1 s c rest hp] at ht
    exact hexec c _ t (hpending s c rest hp hs) ht

/-- Settles O52: every command settles the levels again, or leaves alone what they are derived from. -/
theorem outputsStaySettled : Obligations.OutputsStaySettled :=
  step_keeps (fun _ _ _ _ hs => hs) fun _ _ _ hs ht => (exec_effect ht).2 hs

/-- A preparation takes an announcement off the queue, or is a change of its own. -/
theorem prepares_changes {s0 x y : State} (hp : Prepares s0 x y) :
    (∃ a rest, x.queue = a :: rest ∧ y = { x with queue := rest }) ∨ Changes s0 x y := by
  cases hp with
  | popped a rest hq => exact .inl ⟨a, rest, hq, rfl⟩
  | relinked i f hf => exact .inr (.relinked i f hf)
  | preempted t _ =>
    rw [dropHold_frame]
    exact .inr (.holdsLost _ fun u => dropHold_loses x t u .preempted)
  | refitted h b c hb hr => exact .inr (.edited h b c hb (.refitted hr))

/-- A law of the tables that changes keep, and the queue losing its head too, is kept by every step. -/
theorem step_keeps_of_tables {I : State → Prop}
    (hpending : ∀ s c rest, s.pending = c :: rest → I s → I { s with pending := rest })
    (hpopped : ∀ s a rest, s.queue = a :: rest → I s → I { s with queue := rest })
    (hchanges : ∀ s x y, I s → I x → Changes s x y → I y)
    (hsame : ∀ y t, I y → SameTables y t → I t) : ∀ s t, I s → step s = .next t → I t := by
  refine step_keeps hpending fun i s t hs ht => ?_
  obtain ⟨⟨x, y, hx, hy, hsm⟩, -⟩ := exec_effect ht
  have hprepared : I x := prepared_keeps hx hs fun u v hu hv => by
    rcases prepares_changes hv with ⟨a, rest, hq, rfl⟩ | hchange
    · exact hpopped u a rest hq hu
    · exact hchanges s u v hs hu hchange
  exact hsame y t (hchanges s x y hs hprepared hy) hsm

end Sys2Proof.Machine
end

section
/-! PROOF. Where the bookings after a change come from, and the fields that follow a booking's state (O55, O60). -/

namespace Sys2Proof.Machine

/-! ### The bookings after a preparation and after a change -/

/-- The change from `x` to `y` books an episode of a link, which joins the link's history (R81, R82). -/
def BooksEpisode (x y : State) (c : Booking) : Prop :=
  ∃ slot h l a ids, lowestFreeBooking x = some slot ∧ c = seriesBooking h l a ∧
    linkOf x h = some { l with status := .active } ∧ (∀ e, a.episode = some e → e ∉ l.history) ∧
    historyAfter x h l a = some ids ∧
    y = updateLink (occupyBooking x slot (seriesBooking h l a)) h.slot fun k => { k with history := ids }

theorem occupied_congr {s t : State} (h : t.bookings = s.bookings) : occupied t = occupied s := by
  unfold occupied; rw [h]

theorem occupied_of_slot_map {s t : State} (g : Nat → BookingSlot → BookingSlot)
    (hg : ∀ i, t.bookings[i]? = (s.bookings[i]?).map (g i)) {h : Handle} {c : Booking} (hm : (h, c) ∈ occupied t) :
    ∃ sl, s.bookings[h.slot]? = some sl ∧ g h.slot sl = ⟨h.tag, some c⟩ := by
  rw [mem_occupied, hg, Option.map_eq_some_iff] at hm
  exact hm

/-- A record written in an occupied slot: every booking is as it was, or the one written. -/
theorem occupied_update {x : State} {h g : Handle} {b c d : Booking} (hb : (h, b) ∈ occupied x)
    (hm : (g, d) ∈ occupied (updateBooking x h.slot fun _ => c)) :
    (g = h ∧ d = c) ∨ (g.slot ≠ h.slot ∧ (g, d) ∈ occupied x) := by
  by_cases hs : g.slot = h.slot
  · exact .inl (occupied_slot_unique hm (occupied_written c hb) hs)
  · rw [mem_occupied, updateBooking_slot, if_neg (Ne.symm hs)] at hm
    exact .inr ⟨hs, (mem_occupied x g d).mpr hm⟩

theorem not_mem_occupied_of_free {s : State} (hfree : ∀ sl ∈ s.bookings, sl.booking = none) {h : Handle} {c : Booking} :
    (h, c) ∉ occupied s := fun hm => by
  rw [mem_occupied] at hm
  have := hfree _ (List.mem_of_getElem? hm)
  simp at this

theorem occupied_reset {q : List Instr} {h : Handle} {c : Booking} : (h, c) ∉ occupied { State.reset with pending := q } :=
  not_mem_occupied_of_free fun sl hsl => by rw [(List.mem_replicate.mp hsl).2]

theorem occupied_occupyBooking {x : State} {slot : Nat} {b c : Booking} {h : Handle}
    (hm : (h, c) ∈ occupied (occupyBooking x slot b)) :
    (h.slot = slot ∧ h.tag = nextBookingTag x slot ∧ c = b) ∨ (h.slot ≠ slot ∧ (h, c) ∈ occupied x) := by
  rw [mem_occupied, occupyBooking_slot] at hm
  split at hm
  · next hs =>
    obtain ⟨sl, -, he⟩ := Option.map_eq_some_iff.mp hm
    simp only [BookingSlot.mk.injEq, Option.some.injEq] at he
    exact .inl ⟨hs.symm, he.1.symm, he.2.symm⟩
  · next hs => exact .inr ⟨Ne.symm hs, (mem_occupied x h c).mpr hm⟩

theorem occupied_freeBooking {x : State} {i : Nat} {h : Handle} {c : Booking} (hm : (h, c) ∈ occupied (freeBooking x i)) :
    h.slot ≠ i ∧ (h, c) ∈ occupied x := by
  rw [mem_occupied, freeBooking_slot] at hm
  split at hm
  · obtain ⟨sl, -, he⟩ := Option.map_eq_some_iff.mp hm
    simp at he
  · next hs => exact ⟨Ne.symm hs, (mem_occupied x h c).mpr hm⟩

theorem installSlots_slot (p : PassRecord) (slots : List BookingSlot) (i : Nat) :
    (installSlots p slots)[i]? =
      (slots[i]?).map fun sl => { sl with booking := sl.booking.map (installInto p ⟨i, sl.lastTag⟩) } := by
  unfold installSlots
  rw [List.getElem?_map, List.getElem?_zipIdx]
  cases slots[i]? with
  | none => rfl
  | some sl => simp

theorem occupied_removeLink {x : State} {g h : Handle} {w : Bool} {c : Booking}
    (hm : (h, c) ∈ occupied (removeLink x g w)) :
    ∃ b, (h, b) ∈ occupied x ∧
      ((b.link ≠ some g ∧ c = b) ∨
        (b.link = some g ∧ (w && b.state == .scheduled) = false ∧ c = { b with link := none })) := by
  obtain ⟨⟨tag, lk⟩, hsl, he⟩ :=
    occupied_of_slot_map (s := x) (fun _ => removeLinkFrom g w) (fun i => List.getElem?_map) hm
  cases lk with
  | none => simp [removeLinkFrom] at he
  | some b =>
    simp only [removeLinkFrom] at he
    split at he
    · next hl =>
      split at he
      · simp at he
      · next hk =>
        simp only [BookingSlot.mk.injEq, Option.some.injEq] at he
        exact ⟨b, (mem_occupied x h b).mpr (by rw [hsl, he.1]), .inr ⟨hl, Bool.eq_false_iff.mpr hk, he.2.symm⟩⟩
    · next hl =>
      simp only [BookingSlot.mk.injEq, Option.some.injEq] at he
      exact ⟨b, (mem_occupied x h b).mpr (by rw [hsl, he.1]), .inl ⟨hl, he.2.symm⟩⟩

theorem occupied_reached {x y : State}
    (hy : y.bookings = x.bookings.map fun sl => { sl with booking := sl.booking.map (reachClosePoint y) })
    {h : Handle} {c : Booking} (hm : (h, c) ∈ occupied y) : ∃ b, (h, b) ∈ occupied x ∧ c = reachClosePoint y b := by
  obtain ⟨⟨tag, bk⟩, hsl, he⟩ := occupied_of_slot_map (s := x)
    (fun _ sl => { sl with booking := sl.booking.map (reachClosePoint y) }) (fun i => by rw [hy, List.getElem?_map]) hm
  cases bk with
  | none => simp at he
  | some b =>
    simp only [Option.map_some, BookingSlot.mk.injEq, Option.some.injEq] at he
    exact ⟨b, (mem_occupied x h b).mpr (by rw [hsl, he.1]), he.2.symm⟩

theorem occupied_installPass {x : State} {p : PassRecord} {h : Handle} {c : Booking}
    (hm : (h, c) ∈ occupied (installPass x p)) : ∃ b, (h, b) ∈ occupied x ∧ c = installInto p h b := by
  obtain ⟨⟨tag, bk⟩, hsl, he⟩ := occupied_of_slot_map (s := x)
    (fun i sl => { sl with booking := sl.booking.map (installInto p ⟨i, sl.lastTag⟩) }) (installSlots_slot p x.bookings) hm
  cases bk with
  | none => simp at he
  | some b =>
    simp only [Option.map_some, BookingSlot.mk.injEq, Option.some.injEq] at he
    obtain ⟨rfl, rfl⟩ := he
    exact ⟨b, (mem_occupied x h b).mpr hsl, rfl⟩

theorem edit_installInto {s0 x y : State} {p : PassRecord} (hp : x.planner.pass = some p) (h : Handle) (b : Booking) :
    Edit s0 x y h b (installInto p h b) := by
  unfold installInto
  split
  · next e he =>
    split
    · next hst => exact .resulted p e hp he hst
    · exact .marked false b.clashMark
  · exact .marked false b.clashMark

/-- What a change makes of the records of many slots at once, or of a booking that finishes. -/
inductive Lightly (x y : State) (h : Handle) (b : Booking) : Booking → Prop
  | same : Lightly x y h b b
  | unlinked : Lightly x y h b { b with link := none }
  | installed (p : PassRecord) : x.planner.pass = some p → Lightly x y h b (installInto p h b)
  | reached : Lightly x y h b (reachClosePoint y b)
  | finished (st : BookingState) (reason : Option FinishReason) : mayFinish b.state st reason = true →
      Lightly x y h b (finished x st reason b)

/-- The booking under a handle is a new one in the lowest free slot under its next tag. -/
def NewBooking (s0 x y : State) (h : Handle) (c : Booking) : Prop :=
  lowestFreeBooking x = some h.slot ∧ h.tag = nextBookingTag x h.slot ∧ Creates s0 x c ∧
    (c.link = none ∨ BooksEpisode x y c)

/-- The booking under a handle is one that stood there, edited, or a new one. -/
def Arises (s0 x y : State) (h : Handle) (c : Booking) : Prop :=
  (∃ b, (h, b) ∈ occupied x ∧ Edit s0 x y h b c) ∨ NewBooking s0 x y h c

/-- A change edits one record and nothing else, or every booking after it is a new one or one of before, lightly changed. -/
theorem changes_lightly {s0 x y : State} (hc : Changes s0 x y) :
    (∃ h b c, (h, b) ∈ occupied x ∧ Edit s0 x x h b c ∧ y = updateBooking x h.slot fun _ => c) ∨
      ∀ h c, (h, c) ∈ occupied y → NewBooking s0 x y h c ∨ ∃ b, (h, b) ∈ occupied x ∧ Lightly x y h b c := by
  have hsame {z : State} (hz : z.bookings = x.bookings) : ∀ h c, (h, c) ∈ occupied z →
      NewBooking s0 x z h c ∨ ∃ b, (h, b) ∈ occupied x ∧ Lightly x z h b c :=
    fun h c hm => .inr ⟨c, occupied_congr hz ▸ hm, .same⟩
  cases hc with
  | edited g b d hb he => exact .inl ⟨g, b, d, hb, he, rfl⟩
  | poweredOn => exact .inr fun h c hm => absurd hm occupied_reset
  | cleared holds _ =>
    refine .inr fun h c hm => absurd hm (not_mem_occupied_of_free fun sl hsl => ?_)
    obtain ⟨sl, -, rfl⟩ := List.mem_map.mp hsl
    rfl
  | booked slot b hslot hb hlink =>
    refine .inr fun h c hm => ?_
    rcases occupied_occupyBooking hm with ⟨rfl, htag, rfl⟩ | ⟨-, hx⟩
    · exact .inl ⟨hslot, htag, hb, .inl hlink⟩
    · exact .inr ⟨c, hx, .same⟩
  | bookedEpisode slot g l a ids hslot hb hl hnew hids =>
    refine .inr fun h c hm => ?_
    rw [occupied_congr (updateLink_bookings _ _ _)] at hm
    rcases occupied_occupyBooking hm with ⟨rfl, htag, rfl⟩ | ⟨-, hx⟩
    · exact .inl ⟨hslot, htag, hb, .inr ⟨h.slot, g, l, a, ids, hslot, rfl, hl, hnew, hids, rfl⟩⟩
    · exact .inr ⟨c, hx, .same⟩
  | freed i => exact .inr fun h c hm => .inr ⟨c, (occupied_freeBooking hm).2, .same⟩
  | finished g b st reason hb hst =>
    refine .inr fun h c hm => ?_
    rw [occupied_congr (finishBooking_bookings x g b st reason), updateBooking_eq_const _ hb] at hm
    rcases occupied_update hb hm with ⟨rfl, rfl⟩ | ⟨-, hx⟩
    · exact .inr ⟨b, hb, .finished st reason hst⟩
    · exact .inr ⟨c, hx, .same⟩
  | unlinked g l w =>
    refine .inr fun h c hm => ?_
    obtain ⟨b, hb, ⟨-, rfl⟩ | ⟨-, -, rfl⟩⟩ := occupied_removeLink hm
    · exact .inr ⟨c, hb, .same⟩
    · exact .inr ⟨b, hb, .unlinked⟩
  | installed p hp =>
    refine .inr fun h c hm => ?_
    obtain ⟨b, hb, rfl⟩ := occupied_installPass hm
    exact .inr ⟨b, hb, .installed p hp⟩
  | ticked | timeSet =>
    refine .inr fun h c hm => ?_
    obtain ⟨b, hb, rfl⟩ := occupied_reached rfl hm
    exact .inr ⟨b, hb, .reached⟩
  | none | holdsLost | held | begun | stepped | entered | removed | banded | linkAdded | relinked | queued | clocked
  | policySet => exact .inr (hsame rfl)

/-- An edit made at a state is one made at the state after it, of the same clock. -/
theorem edit_written {s0 x : State} {h : Handle} {b c : Booking} (he : Edit s0 x x h b c) (slot : Nat) (d : Booking) :
    Edit s0 x (updateBooking x slot fun _ => d) h b c := by
  cases he with
  | reached => exact (rfl : reachClosePoint (updateBooking x slot fun _ => d) b = reachClosePoint x b) ▸ .reached
  | same => exact .same
  | marked a b => exact .marked a b
  | unlinked => exact .unlinked
  | resulted p e hp he hst => exact .resulted p e hp he hst
  | confirmed hst => exact .confirmed hst
  | started p key hp hkey hcheck => exact .started p key hp hkey hcheck
  | extended r hst hr hgranted => exact .extended r hst hr hgranted
  | finished st reason hm => exact .finished st reason hm
  | rescheduled f e st hst ht hf hdup => exact .rescheduled f e st hst ht hf hdup
  | announced a u st hst ha hpair => exact .announced a u st hst ha hpair
  | attached a hst hnone ha hpair => exact .attached a hst hnone ha hpair
  | refitted hr => exact .refitted hr

/-- Every booking after a change is one of before, edited, or newly created. -/
theorem changes_arises {s0 x y : State} (hc : Changes s0 x y) {h : Handle} {c : Booking} (hm : (h, c) ∈ occupied y) :
    Arises s0 x y h c := by
  rcases changes_lightly hc with ⟨g, b, d, hb, he, rfl⟩ | hlight
  · rcases occupied_update hb hm with ⟨rfl, rfl⟩ | ⟨-, hx⟩
    · exact .inl ⟨b, hb, edit_written he _ _⟩
    · exact .inl ⟨c, hx, .same⟩
  · rcases hlight h c hm with hnew | ⟨b, hb, hl⟩
    · exact .inr hnew
    · refine .inl ⟨b, hb, ?_⟩
      cases hl with
      | same => exact .same
      | unlinked => exact .unlinked
      | installed p hp => exact edit_installInto hp h b
      | reached => exact .reached
      | finished st reason hst => exact .finished st reason hst

end Sys2Proof.Machine
end

section
/-! PROOF. The fields of a booking follow its state and its counts stay in range (O55), and a booking keeps its identity
(O60). -/

namespace Sys2Proof.Machine

/-! ### What an edit leaves of a record -/

/-- What a running placement keeps once it is written (R129). -/
def standing (r : RunningPlacement) : Tuner × MuxKey × ShowingUsed × Nat := (r.tuner, r.key, r.used, r.actualOpen)

theorem retimed_frame (x : State) (newPost : Option Nat) (b : Booking) :
    retimed x newPost b =
        { b with running := (retimed x newPost b).running, closeReached := (retimed x newPost b).closeReached } ∧
      (retimed x newPost b).running.map standing = b.running.map standing := by
  unfold retimed
  split
  · exact ⟨rfl, rfl⟩
  · next r hr =>
    split
    · exact ⟨rfl, rfl⟩
    · exact ⟨rfl, by rw [hr]; rfl⟩

theorem withShowing_frame (b : Booking) (u : ShowingUsed) (g : Showing → Showing) :
    withShowing b u g =
      { b with primary := (withShowing b u g).primary, alternative := (withShowing b u g).alternative } := by
  cases u <;> rfl

theorem reshown_frame (x : State) (h : Handle) (b : Booking) (u : ShowingUsed) (g : Showing → Showing) (st : RunningStatus) :
    reshown x h b u g st =
      { b with
        primary := (reshown x h b u g st).primary, alternative := (reshown x h b u g st).alternative
        version := (reshown x h b u g st).version, runningStatus := st } := by
  unfold reshown
  rw [withShowing_frame]

theorem raisedVersion_lt (x : State) (h : Handle) (b : Booking) : raisedVersion x h b < 256 := by
  have hstep (avoid : List Nat) (fuel v : Nat) (hv : v < 256) : stepOver avoid fuel v < 256 := by
    induction fuel generalizing v with
    | zero => exact hv
    | succ fuel ih =>
      rw [stepOver]
      split
      · exact ih _ (Nat.mod_lt _ (by decide))
      · exact hv
  exact hstep _ _ _ (Nat.mod_lt _ (by decide))

/-- The version after an edit that may raise it (R6). -/
def RaisedOrSame (x : State) (h : Handle) (b c : Booking) : Prop := c.version = b.version ∨ c.version = raisedVersion x h b

/-- A refitted booking is running, and keeps all but its fields, its version and the end of its running placement. -/
theorem refit_frame {s0 x : State} {h : Handle} {b c : Booking} (hr : Refit s0 x h b c) :
    c = { b with
          primary := c.primary, alternative := c.alternative, prePad := c.prePad, postPad := c.postPad
          priority := c.priority, follow := c.follow, runningStatus := c.runningStatus, version := c.version
          running := c.running, closeReached := c.closeReached } ∧
      c.running.map standing = b.running.map standing ∧ b.state.isRunning = true ∧ RaisedOrSame x h b c := by
  have hretimed {d : Booking} (newPost : Option Nat) (cond : Bool)
      (hd : d = { b with
          primary := d.primary, alternative := d.alternative, prePad := d.prePad, postPad := d.postPad
          priority := d.priority, follow := d.follow, runningStatus := d.runningStatus, version := d.version })
      (hv : RaisedOrSame x h b d) (hc : c = if cond then retimed x newPost d else d) (hrun : b.state.isRunning = true) :
      c = { b with
          primary := c.primary, alternative := c.alternative, prePad := c.prePad, postPad := c.postPad
          priority := c.priority, follow := c.follow, runningStatus := c.runningStatus, version := c.version
          running := c.running, closeReached := c.closeReached } ∧
      c.running.map standing = b.running.map standing ∧ b.state.isRunning = true ∧ RaisedOrSame x h b c := by
    obtain ⟨hframe, hstand⟩ := retimed_frame x newPost d
    have hdr : d.running = b.running := by rw [hd]
    cases cond with
    | true =>
      rw [if_pos rfl] at hc
      rw [← hc] at hframe hstand
      have hcv : c.version = d.version := by rw [hframe]
      refine ⟨?_, by rw [hstand, hdr], hrun, by unfold RaisedOrSame at hv ⊢; rwa [hcv]⟩
      rw [hframe, hd]
    | false =>
      rw [if_neg (by decide)] at hc
      subst hc
      refine ⟨?_, by rw [hdr], hrun, hv⟩
      rw [hd]
  cases hr with
  | amended f d hrun _ _ _ =>
    refine hretimed _ _ rfl ?_ rfl hrun
    unfold RaisedOrSame amended
    dsimp only
    split
    · exact .inr rfl
    · exact .inl rfl
  | announced a hrun _ _ =>
    refine hretimed none _ ?_ ?_ rfl hrun
    · rw [reshown_frame]
    · unfold RaisedOrSame reshown
      dsimp only
      split
      · exact .inr rfl
      · exact .inl rfl

/-! ### The states of a booking -/

theorem currentPlacement_scheduled {b : Booking} {p : Placement} (hp : currentPlacement b = some p) : b.state = .scheduled := by
  unfold currentPlacement at hp
  split at hp
  · assumption
  · cases hp

/-- The moves of R8 that end in a finished state, with their reasons. -/
theorem mayFinish_cases {a st : BookingState} {reason : Option FinishReason} (h : mayFinish a st reason = true) :
    stateMoves a st = true ∧ st.isFinished = true ∧ a.isFinished = false ∧ reasonFits st reason = true ∧
      (a = .scheduled ↔ st = .missed) := by
  unfold mayFinish at h
  split at h
  all_goals simp_all [stateMoves, BookingState.isFinished, reasonFits]

/-- A live booking has no finish reason (R9). -/
theorem reasonFits_live {st : BookingState} (r : Option FinishReason) (h : st.isFinished = false) :
    reasonFits st r = true ↔ r = none := by
  cases st <;> cases r <;> simp_all [reasonFits, BookingState.isFinished]

/-- An edit keeps the fields of a booking following its state. -/
theorem edit_presence {s0 x y : State} {h : Handle} {b c : Booking} (he : Edit s0 x y h b c) (hb : PresenceWf b) :
    PresenceWf c := by
  unfold PresenceWf at hb ⊢
  obtain ⟨hrun, hstart, hend, hreason, htimer, hclose⟩ := hb
  cases he with
  | same | marked | unlinked | attached | rescheduled => exact ⟨hrun, hstart, hend, hreason, htimer, hclose⟩
  | resulted => exact ⟨hrun, hstart, hend, hreason, htimer, hclose⟩
  | reached =>
    unfold reachClosePoint
    split
    · refine ⟨hrun, hstart, hend, hreason, htimer, fun hc => ?_⟩
      rcases Bool.or_eq_true _ _ ▸ hc with hc | hc
      · exact hclose hc
      · exact (Bool.and_eq_true _ _ ▸ hc).1
    · exact ⟨hrun, hstart, hend, hreason, htimer, hclose⟩
  | confirmed hst =>
    rw [hst] at hrun hend hreason
    rw [reasonFits_live _ rfl] at hreason
    simp only [reduceCtorEq, or_self, iff_false] at hrun
    refine ⟨?_, hstart, hend, (reasonFits_live _ rfl).mpr hreason, ?_, fun _ => rfl⟩
    · simpa [confirmed] using hrun
    · simp [confirmed]
  | started p key hp _ _ =>
    rw [currentPlacement_scheduled hp] at hend hreason
    rw [reasonFits_live _ rfl] at hreason
    refine ⟨?_, rfl, hend, (reasonFits_live _ rfl).mpr hreason, ?_, fun hc => by cases hc⟩
    · simp [started]
    · simp [started]
  | extended r hst hr _ =>
    refine ⟨?_, ?_, hend, hreason, htimer, fun _ => ?_⟩
    · simp [extended, hst]
    · rw [hr] at hstart; exact hstart
    · show b.state.isRunning = true
      rw [hst]; rfl
  | finished st reason hm =>
    obtain ⟨-, hfin, hlive, hfits, hmissed⟩ := mayFinish_cases hm
    refine ⟨?_, hstart, hfin.symm, hfits, ?_, fun hc => by cases hc⟩
    · rw [show (finished x st reason b).running = b.running from rfl, hrun, show (finished x st reason b).state = st from rfl]
      rw [hmissed]
      constructor
      · rintro (h1 | h1)
        · exact .inr h1
        · rw [h1] at hlive; cases hlive
      · rintro (h1 | h1)
        · rw [h1] at hfin; cases hfin
        · exact .inl h1
    · show (none : Option ConfirmTimer).isSome = true ↔ st = .starting
      constructor
      · intro h1; cases h1
      · intro h1; rw [h1] at hfin; cases hfin
  | announced a u st _ _ _ =>
    rw [reshown_frame]
    exact ⟨hrun, hstart, hend, hreason, htimer, hclose⟩
  | refitted hr =>
    obtain ⟨hframe, hstand, hisRun, -⟩ := refit_frame hr
    have hsome : c.running.isSome = b.running.isSome := by simpa using congrArg Option.isSome hstand
    have hnone : c.running.isNone = b.running.isNone := by simpa using congrArg Option.isNone hstand
    rw [hframe]
    exact ⟨by rw [show c.running.isNone = _ from hnone]; exact hrun,
      by rw [show c.running.isSome = _ from hsome]; exact hstart, hend, hreason, htimer, fun _ => hisRun⟩

theorem creates_presence {s0 x : State} {c : Booking} (hc : Creates s0 x c) : PresenceWf c := by
  cases hc <;>
    simp [PresenceWf, manualBooking, seriesBooking, BookingState.isFinished, reasonFits]

/-! ### O55 -/

theorem changes_presence {s0 x y : State} (hx : PresenceKept x) (hc : Changes s0 x y) : PresenceKept y := by
  rintro ⟨h, c⟩ hm
  rcases changes_arises hc hm with ⟨b, hb, he⟩ | ⟨-, -, hnew, -⟩
  · exact edit_presence he (hx _ hb)
  · exact creates_presence hnew

theorem prepares_presence {s0 x y : State} (hx : PresenceKept x) (hp : Prepares s0 x y) : PresenceKept y := by
  rcases prepares_changes hp with ⟨a, rest, -, rfl⟩ | hc
  · exact hx
  · exact changes_presence hx hc

/-- The pass of the planner after a change is the one before, a pass just begun, or the one before after a step. -/
theorem changes_pass {s0 x y : State} (hc : Changes s0 x y) {q : PassRecord} (hq : y.planner.pass = some q) :
    x.planner.pass = some q ∨
      (q.order = placementOrder x ∧ q.results = [] ∧ q.streamLimit = x.policy.streamLimit) ∨
      ∃ p e, x.planner.pass = some p ∧ p.order[x.planner.stepsDone]? = some e ∧ q = stepRecord x p e ∧
        y.bookings = x.bookings := by
  cases hc with
  | poweredOn | cleared | installed => cases hq
  | begun n _ =>
    injection hq with hq
    subst hq
    exact .inr (.inl ⟨rfl, rfl, rfl⟩)
  | stepped p e hp _ he =>
    injection hq with hq
    exact .inr (.inr ⟨p, e, hp, he, hq.symm, rfl⟩)
  | finished h b st reason _ _ =>
    rw [finishBooking_frame] at hq
    exact .inl hq
  | _ => exact .inl hq

theorem edit_counts {s0 x y : State} {h : Handle} {b c : Booking} (he : Edit s0 x y h b c) (hx : CountsKept x)
    (hb : CountsWf b) : CountsWf c := by
  unfold CountsWf at hb ⊢
  obtain ⟨hver, hmod, hmax, hzero, hinst⟩ := hb
  have hraised (d : Booking) : raisedVersion x h d ≤ 255 := Nat.le_of_lt_succ (raisedVersion_lt x h d)
  cases he with
  | same | marked | unlinked => exact ⟨hver, hmod, hmax, hzero, hinst⟩
  | resulted p e hp he _ =>
    refine ⟨hver, hmod, hmax, hzero, fun i hi => ?_⟩
    obtain ⟨r, hr, rfl⟩ := Option.map_eq_some_iff.mp he
    obtain rfl : i = r.evaluation := by simpa [writeResult] using hi
    exact ((hx.2 p (by simp [hp])).2 r (List.mem_of_find?_eq_some hr))
  | reached =>
    unfold reachClosePoint
    split
    · exact ⟨hver, hmod, hmax, hzero, hinst⟩
    · exact ⟨hver, hmod, hmax, hzero, hinst⟩
  | confirmed _ => exact ⟨hver, hmod, hmax, nofun, hinst⟩
  | started p key _ _ _ => exact ⟨hver, hmod, hmax, nofun, hinst⟩
  | extended r hst _ hg =>
    have hlimit := ((extensionGranted_iff x h.slot b r).mp hg).2.2.1
    have hmore : (extended x r b).extensionUsed = b.extensionUsed + 300 := rfl
    refine ⟨hver, by rw [hmore]; omega, by rw [hmore]; omega, fun hs => ?_, hinst⟩
    exact absurd (hst.symm.trans hs) (by decide)
  | finished st reason hm =>
    refine ⟨hver, hmod, hmax, fun hs => ?_, hinst⟩
    have hfin := (mayFinish_cases hm).2.1
    rw [show st = .scheduled from hs] at hfin
    cases hfin
  | rescheduled f d st _ _ _ _ =>
    refine ⟨?_, hmod, hmax, hzero, hinst⟩
    show (if _ then _ else _) ≤ 255
    split
    · exact hraised b
    · exact hver
  | announced a u st _ _ _ =>
    rw [reshown_frame]
    refine ⟨?_, hmod, hmax, hzero, hinst⟩
    show (if _ then _ else _) ≤ 255
    split
    · exact hraised b
    · exact hver
  | attached a _ _ _ _ => exact ⟨hraised b, hmod, hmax, hzero, hinst⟩
  | refitted hr =>
    obtain ⟨hframe, -, -, hv⟩ := refit_frame hr
    have hcv : c.version ≤ 255 := by
      rcases hv with hv | hv
      · rw [hv]; exact hver
      · rw [hv]; exact hraised b
    rw [hframe]
    exact ⟨hcv, hmod, hmax, hzero, hinst⟩

theorem creates_counts {s0 x : State} {c : Booking} (hc : Creates s0 x c) : CountsWf c := by
  cases hc <;> simp [CountsWf, manualBooking, seriesBooking]

theorem placementOrder_merit {s : State} {e : OrderEntry} (he : e ∈ placementOrder s) : MeritInRange e.merit := by
  obtain ⟨f, -, rfl⟩ := List.mem_map.mp ((placementOrder_perm s).mem_iff.mp he)
  exact saturateMerit_inRange _

/-- The results after a step: those of before, and at most the evaluation of the booking under the entry's handle. -/
theorem stepRecord_results {x : State} {p : PassRecord} {e : OrderEntry} {q : StepResult}
    (hq : q ∈ (stepRecord x p e).results) :
    q ∈ p.results ∨ ∃ b, bookingOf x e.handle = some b ∧ b.state = .scheduled ∧ q = stepResult x p e b := by
  unfold stepRecord at hq
  split at hq
  · exact .inl hq
  · next b hb =>
    split at hq
    · next hst =>
      rcases List.mem_append.mp hq with hold | hnew
      · exact .inl hold
      · exact .inr ⟨b, hb, hst, List.mem_singleton.mp hnew⟩
    all_goals exact .inl hq

theorem stepRecord_fixed (x : State) (p : PassRecord) (e : OrderEntry) :
    (stepRecord x p e).order = p.order ∧ (stepRecord x p e).streamLimit = p.streamLimit := by
  unfold stepRecord
  split
  · exact ⟨rfl, rfl⟩
  · split <;> exact ⟨rfl, rfl⟩

theorem changes_counts {s0 x y : State} (hx : CountsKept x) (hc : Changes s0 x y) : CountsKept y := by
  refine ⟨?_, ?_⟩
  · rintro ⟨h, c⟩ hm
    rcases changes_arises hc hm with ⟨b, hb, he⟩ | ⟨-, -, hnew, -⟩
    · exact edit_counts he hx (hx.1 _ hb)
    · exact creates_counts hnew
  · intro q hq
    rcases changes_pass hc (Option.mem_toList.mp hq) with hsame | ⟨horder, hnone, -⟩ | ⟨p, e, hp, he, rfl, -⟩
    · exact hx.2 q (by simp [hsame])
    · rw [horder, hnone]
      exact ⟨fun e he => placementOrder_merit he, nofun⟩
    · obtain ⟨hmerits, hresults⟩ := hx.2 p (by simp [hp])
      rw [(stepRecord_fixed x p e).1]
      refine ⟨hmerits, fun r hr => ?_⟩
      rcases stepRecord_results hr with hold | ⟨b, hb, -, rfl⟩
      · exact hresults r hold
      · exact ⟨(hx.1 _ ((bookingOf_iff_occupied x e.handle b).mp hb)).1, hmerits e (List.mem_of_getElem? he)⟩

/-- Settles O55: every edit of a record keeps its fields following its state and its counts in range, and a pass holds
merits and stamps in range. -/
theorem recordsFollowTheirStates : Obligations.RecordsFollowTheirStates := by
  refine ⟨step_keeps_of_tables (fun _ _ _ _ h => h) (fun _ _ _ _ h => h)
    (fun _ _ _ _ h hc => changes_presence h hc) fun y t hy ht => ?_,
    step_keeps_of_tables (fun _ _ _ _ h => h) (fun _ _ _ _ h => h)
    (fun _ _ _ _ h hc => changes_counts h hc) fun y t hy ht => ?_⟩
  · rw [ht]; exact hy
  · rw [ht]; exact hy

/-! ### O60 -/

/-- A booking that only took new fields and a new end. -/
def OnlyRefitted (b c : Booking) : Prop :=
  c.state = b.state ∧ c.origin = b.origin ∧ c.isRepeat = b.isRepeat ∧ c.episode = b.episode ∧
    c.running.map standing = b.running.map standing ∧ c.startStamp = b.startStamp ∧ c.endStamp = b.endStamp

theorem refit_onlyRefitted {s0 x : State} {h : Handle} {b c : Booking} (hr : Refit s0 x h b c) : OnlyRefitted b c := by
  obtain ⟨hframe, hstand, -, -⟩ := refit_frame hr
  rw [hframe]
  exact ⟨rfl, rfl, rfl, rfl, hstand, rfl, rfl⟩

theorem onlyRefitted_trans {b c d : Booking} (h1 : OnlyRefitted b c) (h2 : OnlyRefitted c d) : OnlyRefitted b d := by
  unfold OnlyRefitted at *
  simp_all

/-- The running placement of a booking whose standing parts stay. -/
theorem standing_kept {p q : Option RunningPlacement} (h : q.map standing = p.map standing) :
    ∀ r ∈ p.toList, ∃ r1 ∈ q.toList, r1.tuner = r.tuner ∧ r1.key = r.key ∧ r1.used = r.used ∧ r1.actualOpen = r.actualOpen := by
  intro r hr
  rw [Option.mem_toList.mp hr] at h
  obtain ⟨r1, hq, hstand⟩ := Option.map_eq_some_iff.mp h
  simp only [standing, Prod.mk.injEq] at hstand
  exact ⟨r1, Option.mem_toList.mpr hq, hstand⟩

theorem stateMoves_refl (a : BookingState) : stateMoves a a = true := by cases a <;> rfl

theorem staysTheSame_of_refitted {b c : Booking} (h : OnlyRefitted b c) : staysTheSame b c := by
  obtain ⟨hst, ho, hr, he, hrun, hstart, hend⟩ := h
  exact ⟨by rw [hst]; exact stateMoves_refl _, ho, hr, he, standing_kept hrun, fun _ => hstart, fun _ => hend⟩

theorem staysTheSame_trans {b c d : Booking} (h1 : OnlyRefitted b c) (h2 : staysTheSame c d) : staysTheSame b d := by
  obtain ⟨hst, ho, hr, he, hrun, hstart, hend⟩ := h1
  obtain ⟨kst, ko, kr, ke, krun, kstart, kend⟩ := h2
  rw [hst] at kst
  refine ⟨kst, ko.trans ho, kr.trans hr, ke.trans he, fun r hmem => ?_, ?_, ?_⟩
  · obtain ⟨r1, hr1, e1, e2, e3, e4⟩ := standing_kept hrun r hmem
    obtain ⟨r2, hr2, d1, d2, d3, d4⟩ := krun r1 hr1
    exact ⟨r2, hr2, d1.trans e1, d2.trans e2, d3.trans e3, d4.trans e4⟩
  · rw [← hstart]; exact kstart
  · rw [← hend]; exact kend

/-- An edit keeps the identity of a booking whose fields follow its state. -/
theorem edit_staysTheSame {s0 x y : State} {h : Handle} {b c : Booking} (he : Edit s0 x y h b c) (hb : PresenceWf b) :
    staysTheSame b c := by
  obtain ⟨hrun, hstart, hend, -, -, -⟩ := hb
  have hquiet {d : Booking} (hd : OnlyRefitted b d) : staysTheSame b d := staysTheSame_of_refitted hd
  cases he with
  | same | marked | unlinked | attached | rescheduled => exact hquiet ⟨rfl, rfl, rfl, rfl, rfl, rfl, rfl⟩
  | resulted => exact hquiet ⟨rfl, rfl, rfl, rfl, rfl, rfl, rfl⟩
  | reached =>
    unfold reachClosePoint
    split
    · exact hquiet ⟨rfl, rfl, rfl, rfl, rfl, rfl, rfl⟩
    · exact hquiet ⟨rfl, rfl, rfl, rfl, rfl, rfl, rfl⟩
  | confirmed hst => exact ⟨by rw [hst]; rfl, rfl, rfl, rfl, standing_kept rfl, fun _ => rfl, fun _ => rfl⟩
  | started p key hp _ _ =>
    have hst := currentPlacement_scheduled hp
    have hnone : b.running = none := by simpa using hrun.mpr (.inl hst)
    refine ⟨by rw [hst]; rfl, rfl, rfl, rfl, by simp [hnone], fun hs => ?_, fun _ => rfl⟩
    rw [hstart, hnone] at hs
    cases hs
  | extended r hst hr _ =>
    exact ⟨stateMoves_refl _, rfl, rfl, rfl, standing_kept (by rw [hr]; rfl), fun _ => rfl, fun _ => rfl⟩
  | finished st reason hm =>
    obtain ⟨hmove, -, hlive, -, -⟩ := mayFinish_cases hm
    refine ⟨hmove, rfl, rfl, rfl, standing_kept rfl, fun _ => rfl, fun hs => ?_⟩
    rw [hend, hlive] at hs
    cases hs
  | announced a u st _ _ _ =>
    rw [reshown_frame]
    exact hquiet ⟨rfl, rfl, rfl, rfl, rfl, rfl, rfl⟩
  | refitted hr => exact hquiet (refit_onlyRefitted hr)

/-- Through a preparation a booking stays in its slot under its tag, at most refitted. -/
theorem prepares_keeps_booking {s0 x y : State} (hp : Prepares s0 x y) {h : Handle} {b : Booking} (hb : (h, b) ∈ occupied x) :
    ∃ c, (h, c) ∈ occupied y ∧ OnlyRefitted b c := by
  have hsame : OnlyRefitted b b := ⟨rfl, rfl, rfl, rfl, rfl, rfl, rfl⟩
  cases hp with
  | preempted t _ => exact ⟨b, occupied_congr (dropHold_bookings x t .preempted) ▸ hb, hsame⟩
  | popped | relinked => exact ⟨b, hb, hsame⟩
  | refitted g d e hd hr =>
    by_cases hs : g.slot = h.slot
    · obtain ⟨rfl, rfl⟩ := occupied_slot_unique hd hb hs
      exact ⟨e, occupied_written e hb, refit_onlyRefitted hr⟩
    · refine ⟨b, ?_, hsame⟩
      rw [mem_occupied] at hb ⊢
      rw [updateBooking_slot, if_neg hs, hb]

/-- Settles O60: preparations at most refit a booking, and the one change makes at most one edit of its record; a booking
that stays in its slot was not created by the event, since its slot was not free. -/
theorem bookingsKeepTheirIdentity : Obligations.BookingsKeepTheirIdentity := by
  intro i s t h b c hs ht hb hc
  obtain ⟨⟨x, y, hx, hy, hsame⟩, -⟩ := exec_effect ht
  rw [bookingOf_iff_occupied] at hb hc
  have hprepared : PresenceKept x ∧ ∃ d, (h, d) ∈ occupied x ∧ OnlyRefitted b d := by
    refine prepared_keeps (P := fun z => PresenceKept z ∧ ∃ d, (h, d) ∈ occupied z ∧ OnlyRefitted b d) hx
      ⟨hs, b, hb, rfl, rfl, rfl, rfl, rfl, rfl, rfl⟩ fun u v hu hv => ?_
    obtain ⟨hpresence, d, hd, hbd⟩ := hu
    obtain ⟨e, he, hde⟩ := prepares_keeps_booking hv hd
    exact ⟨prepares_presence hpresence hv, e, he, onlyRefitted_trans hbd hde⟩
  obtain ⟨hpresence, d, hd, hbd⟩ := hprepared
  rw [hsame] at hc
  rcases changes_arises hy hc with ⟨e, he, hedit⟩ | ⟨hfree, -⟩
  · obtain ⟨-, rfl⟩ := occupied_slot_unique he hd rfl
    exact staysTheSame_trans hbd (edit_staysTheSame hedit (hpresence _ hd))
  · obtain ⟨-, hnone, -⟩ := (lowestFreeBooking_eq_some x h.slot).mp hfree
    rw [mem_occupied] at hd
    simp [bookingAt, hd] at hnone

end Sys2Proof.Machine
end

section
/-! PROOF. The tables, the queue and the map stay well formed (O53). -/

namespace Sys2Proof.Machine

/-! ### The request in process -/

/-- The request in process has fields that lie within their bytes (section 12.1). -/
def RequestWf (s : State) : Prop := ∀ q ∈ s.port.inProcess.toList, q.request.wellFormed = true

theorem requestWf_exec {i : Instr} {s t : State} (hs : RequestWf s) (ht : exec i s = .next t) : RequestWf t := by
  intro q hq
  rcases exec_keepsRequests ht q (Option.mem_toList.mp hq) with hwf | ⟨p, hp, hsame⟩
  · exact hwf
  · exact hsame ▸ hs p (Option.mem_toList.mpr hp)

theorem taking_wf {s : State} {r : Request} {d : Bool} (hs : RequestWf s) (ht : s.port.inProcess = some ⟨r, d⟩) :
    r.wellFormed = true := hs ⟨r, d⟩ (by simp [ht])

/-- A law of the tables that preparations and changes keep while the request in process has its fields within their bytes. -/
theorem step_keeps_with_request {I : State → Prop}
    (hpending : ∀ s c rest, s.pending = c :: rest → I s → I { s with pending := rest })
    (hpopped : ∀ s a rest, s.queue = a :: rest → I s → I { s with queue := rest })
    (hchanges : ∀ s x y, RequestWf s → I s → I x → Changes s x y → I y)
    (hsame : ∀ y t, I y → SameTables y t → I t) :
    ∀ s t, I s ∧ RequestWf s → step s = .next t → I t ∧ RequestWf t := by
  refine step_keeps (I := fun s => I s ∧ RequestWf s) (fun s c rest hp hs => ⟨hpending s c rest hp hs.1, hs.2⟩)
    fun i s t hs ht => ⟨?_, requestWf_exec hs.2 ht⟩
  obtain ⟨⟨x, y, hx, hy, hsm⟩, -⟩ := exec_effect ht
  have hprepared : I x := prepared_keeps hx hs.1 fun u v hu hv => by
    rcases prepares_changes hv with ⟨a, rest, hq, rfl⟩ | hchange
    · exact hpopped u a rest hq hu
    · exact hchanges s u v hs.2 hs.1 hu hchange
  exact hsame y t (hchanges s x y hs.2 hs.1 hprepared hy) hsm

/-! ### The fields of a booking -/

theorem clampedShowing_wf {v : Showing} (ha : ShowingAccepted v) (hw : v.wellFormed = true) : ShowingWf (clampedShowing v) := by
  obtain ⟨hchannel, -⟩ := ha
  simp only [Showing.wellFormed, Bool.and_eq_true, fitsFourBytes, decide_eq_true_eq] at hw
  refine ⟨hchannel, ?_, ?_⟩
  · simp only [clampedShowing]; omega
  · simp only [clampedShowing, Config.topOfTime]; omega

theorem clampedAlternative_wf {o : Option Showing} (ha : ∀ v ∈ o.toList, ShowingAccepted v)
    (hw : o.all Showing.wellFormed = true) : ∀ v ∈ (o.map clampedShowing).toList, ShowingWf v := by
  cases o with
  | none => simp
  | some w => simpa using clampedShowing_wf (ha w (by simp)) hw

/-- The fields an accepted amend stores lie in their ranges (R4, R5). -/
theorem amended_wf {x : State} {h : Handle} {b : Booking} {f : AmendBookingFields} (u : ShowingUsed) (hf : AmendAccepted f)
    (hw : f.wellFormed = true) (hb : FieldsWf b) : FieldsWf (amended x h b (clampedAmend u f)) := by
  simp only [AmendBookingFields.wellFormed, Bool.and_eq_true] at hw
  obtain ⟨⟨⟨⟨hprimary, halternative⟩, -⟩, -⟩, -⟩ := hw
  exact ⟨clampedShowing_wf hf.1 hprimary, clampedAlternative_wf hf.2 halternative, Nat.min_le_left _ _, Nat.min_le_left _ _,
    Nat.min_le_left _ _, hb.2.2.2.2.2⟩

theorem withShowing_wf {b : Booking} (u : ShowingUsed) {g : Showing → Showing} (hg : ∀ v, ShowingWf v → ShowingWf (g v))
    (hb : FieldsWf b) : FieldsWf (withShowing b u g) := by
  obtain ⟨hprimary, halternative, hrest⟩ := hb
  cases u with
  | primary => exact ⟨hg _ hprimary, halternative, hrest⟩
  | alternative =>
    refine ⟨hprimary, fun v hv => ?_, hrest⟩
    simp only [withShowing, Option.mem_toList, Option.map_eq_some_iff] at hv
    obtain ⟨w, hw, rfl⟩ := hv
    exact hg w (halternative w (by simp [hw]))

theorem announcedTimes_wf {a : Announcement} (ha : AnnouncementWf a) : ∀ v, ShowingWf v → ShowingWf (announcedTimes a v) :=
  fun _ hv => ⟨hv.1, ha.1.2⟩

theorem announcedDuration_wf {a : Announcement} (ha : AnnouncementWf a) :
    ∀ v, ShowingWf v → ShowingWf (announcedDuration a v) := fun _ hv => ⟨hv.1, ha.1.2.1, hv.2.2⟩

theorem retimed_wf {x : State} (newPost : Option Nat) {b : Booking} (hb : FieldsWf b) : FieldsWf (retimed x newPost b) := by
  rw [(retimed_frame x newPost b).1]
  exact hb

theorem refit_fields {s0 x : State} {h : Handle} {b c : Booking} (hr : Refit s0 x h b c) (hreq : RequestWf s0)
    (hq : QueueWf s0) (hb : FieldsWf b) : FieldsWf c := by
  cases hr with
  | amended f d _ ht hf _ =>
    have hw := taking_wf hreq ht
    simp only [Request.wellFormed, Bool.and_eq_true] at hw
    have hnew := amended_wf (x := x) (h := h) (usedOf b) hf hw.2 hb
    split
    · exact retimed_wf _ hnew
    · exact hnew
  | announced a _ ha _ =>
    have hnew : FieldsWf (reshown x h b (usedOf b) (announcedDuration a) a.status) :=
      withShowing_wf (usedOf b) (announcedDuration_wf (hq.2 a ha)) hb
    split
    · exact retimed_wf _ hnew
    · exact hnew

theorem edit_fields {s0 x y : State} {h : Handle} {b c : Booking} (he : Edit s0 x y h b c) (hreq : RequestWf s0)
    (hq : QueueWf s0) (hb : FieldsWf b) : FieldsWf c := by
  cases he with
  | same | marked | unlinked | resulted | confirmed | started | extended | finished => exact hb
  | reached => unfold reachClosePoint; split <;> exact hb
  | rescheduled f d st _ ht hf _ =>
    have hw := taking_wf hreq ht
    simp only [Request.wellFormed, Bool.and_eq_true] at hw
    exact amended_wf (x := x) (h := h) (b := b) .primary hf hw.2 hb
  | announced a u st _ ha _ => exact withShowing_wf u (announcedTimes_wf (hq.2 a ha)) hb
  | attached a _ _ ha _ =>
    refine ⟨hb.1, fun v hv => ?_, hb.2.2⟩
    simp only [Option.mem_toList, Option.some.injEq] at hv
    exact hv ▸ (hq.2 a ha).1
  | refitted hr => exact refit_fields hr hreq hq hb

theorem linkOf_wf {s : State} (hl : LinksWf s) {h : Handle} {l : Link} (h1 : linkOf s h = some l) : LinkWf l :=
  hl.2.2 _ ((linkOf_iff_occupied s h l).mp h1)

theorem creates_fields {s0 x : State} {c : Booking} (hc : Creates s0 x c) (hreq : RequestWf s0) (hq : QueueWf s0)
    (hl : LinksWf x) : FieldsWf c := by
  cases hc with
  | manual f d ht hf _ =>
    have hw := taking_wf hreq ht
    simp only [Request.wellFormed, AddBookingFields.wellFormed, Bool.and_eq_true] at hw
    obtain ⟨⟨⟨⟨⟨hprimary, halternative⟩, -⟩, -⟩, -⟩, -⟩ := hw
    exact ⟨clampedShowing_wf hf.1 hprimary, clampedAlternative_wf hf.2.1 halternative, Nat.min_le_left _ _,
      Nat.min_le_left _ _, Nat.min_le_left _ _, hf.2.2⟩
  | series h l a ha hlink _ _ =>
    obtain ⟨hpriority, hpre, hpost, -⟩ := linkOf_wf hl hlink
    exact ⟨(hq.2 a ha).1, nofun, hpre, hpost, hpriority, (hq.2 a ha).2.2⟩

/-! ### The slots of the tables -/

theorem length_of_slots {α β : Type} {xs : List α} {ys : List β} (g : Nat → α → β)
    (hg : ∀ i, ys[i]? = (xs[i]?).map (g i)) : ys.length = xs.length := by
  apply Nat.le_antisymm
  · rw [← List.getElem?_eq_none_iff, hg, List.getElem?_eq_none (Nat.le_refl _)]; rfl
  · rw [← List.getElem?_eq_none_iff, ← Option.map_eq_none_iff (f := g ys.length), ← hg]
    exact List.getElem?_eq_none (Nat.le_refl _)

theorem tagAfter_range (t : Nat) : 1 ≤ tagAfter t ∧ tagAfter t ≤ 255 := by
  unfold tagAfter
  split <;> omega

theorem nextBookingTag_range (s : State) (slot : Nat) : 1 ≤ nextBookingTag s slot ∧ nextBookingTag s slot ≤ 255 := by
  unfold nextBookingTag
  dsimp only
  split <;> exact tagAfter_range _

/-- A table whose slots keep their tags, none occupied that was free, stays well formed. -/
theorem bookingSlotsWf_of_kept {x y : State} (g : Nat → BookingSlot → BookingSlot)
    (hslots : ∀ i, y.bookings[i]? = (x.bookings[i]?).map (g i))
    (hg : ∀ i sl, (g i sl).lastTag = sl.lastTag ∧ ((g i sl).booking.isSome = true → sl.booking.isSome = true))
    (hx : BookingSlotsWf x) : BookingSlotsWf y := by
  refine ⟨(length_of_slots g hslots).trans hx.1, fun sl hsl => ?_⟩
  obtain ⟨i, hi⟩ := List.mem_iff_getElem?.mp hsl
  rw [hslots, Option.map_eq_some_iff] at hi
  obtain ⟨old, hold, rfl⟩ := hi
  obtain ⟨htag, hsome⟩ := hx.2 old (List.mem_of_getElem? hold)
  obtain ⟨hkeep, hocc⟩ := hg i old
  rw [hkeep]
  exact ⟨htag, fun ho => hsome (hocc ho)⟩

theorem updateBooking_slotsWf {x : State} (i : Nat) (f : Booking → Booking) (hx : BookingSlotsWf x) :
    BookingSlotsWf (updateBooking x i f) := by
  refine bookingSlotsWf_of_kept (fun j sl => if i = j then { sl with booking := sl.booking.map f } else sl)
    (fun j => ?_) (fun j sl => ?_) hx
  · rw [updateBooking_slot]
    split
    · rfl
    · simp
  · split <;> simp

theorem occupyBooking_slotsWf {x : State} (i : Nat) (b : Booking) (hx : BookingSlotsWf x) :
    BookingSlotsWf (occupyBooking x i b) := by
  refine ⟨by simpa using hx.1, fun sl hsl => ?_⟩
  rw [occupyBooking_bookings] at hsl
  rcases List.mem_or_eq_of_mem_set hsl with hold | rfl
  · exact hx.2 sl hold
  · exact ⟨(nextBookingTag_range x i).2, fun _ => (nextBookingTag_range x i).1⟩

theorem changes_slotsWf {s0 x y : State} (hc : Changes s0 x y) (hx : BookingSlotsWf x) : BookingSlotsWf y := by
  cases hc with
  | poweredOn =>
    refine ⟨rfl, fun sl hsl => ?_⟩
    rw [(List.mem_replicate.mp hsl).2]
    exact ⟨by decide, by simp⟩
  | cleared holds _ =>
    exact bookingSlotsWf_of_kept (fun _ sl => { sl with booking := none }) (fun i => List.getElem?_map) (fun _ _ => ⟨rfl, nofun⟩) hx
  | booked slot b => exact occupyBooking_slotsWf slot b hx
  | bookedEpisode slot h l a ids => exact occupyBooking_slotsWf slot _ hx
  | freed i =>
    refine bookingSlotsWf_of_kept (fun j sl => if i = j then { sl with booking := none } else sl)
      (fun j => ?_) (fun j sl => ?_) hx
    · rw [freeBooking_slot]
      split
      · rfl
      · simp
    · split <;> simp
  | edited h b c => exact updateBooking_slotsWf _ _ hx
  | finished h b st reason =>
    have := updateBooking_slotsWf h.slot (finished x st reason) hx
    unfold BookingSlotsWf at this ⊢
    rwa [finishBooking_bookings]
  | unlinked h l w =>
    refine bookingSlotsWf_of_kept (fun _ => removeLinkFrom h w) (fun i => List.getElem?_map)
      (fun _ sl => ?_) hx
    unfold removeLinkFrom
    split
    · next hb =>
      split
      · split <;> simp [hb]
      · simp
    · next hb => simp
  | installed p =>
    exact bookingSlotsWf_of_kept (fun i sl => { sl with booking := sl.booking.map (installInto p ⟨i, sl.lastTag⟩) })
      (installSlots_slot p x.bookings) (fun _ _ => ⟨rfl, by simp⟩) hx
  | ticked | timeSet =>
    refine bookingSlotsWf_of_kept (fun _ sl => { sl with booking := sl.booking.map (reachClosePoint _) })
      (fun i => List.getElem?_map) (fun _ _ => ⟨rfl, by simp⟩) hx
  | none | holdsLost | held | begun | stepped | entered | removed | banded | linkAdded | relinked | queued | clocked
  | policySet => exact hx

/-! ### The Link Table -/

/-- The link slot is one of before, with its tag and series id and a link that stays well formed, or free. -/
def KeptLinkSlot (old new : LinkSlot) : Prop :=
  new.lastTag = old.lastTag ∧
    ∀ k, new.link = some k → ∃ l, old.link = some l ∧ k.seriesId = l.seriesId ∧ (LinkWf l → LinkWf k)

theorem keptLinkSlot_refl (sl : LinkSlot) : KeptLinkSlot sl sl := ⟨rfl, fun k hk => ⟨k, hk, rfl, id⟩⟩

theorem keptLinkSlot_freed (sl : LinkSlot) : KeptLinkSlot sl { sl with link := none } := ⟨rfl, nofun⟩

theorem keptLinkSlot_map {sl : LinkSlot} {f : Link → Link}
    (hf : ∀ l, sl.link = some l → (f l).seriesId = l.seriesId ∧ (LinkWf l → LinkWf (f l))) :
    KeptLinkSlot sl { sl with link := sl.link.map f } := by
  refine ⟨rfl, fun k hk => ?_⟩
  obtain ⟨l, hl, rfl⟩ := Option.map_eq_some_iff.mp hk
  exact ⟨l, hl, hf l hl⟩

/-- A list without its first member that meets a condition is shorter by one, and in the same order. -/
theorem dropFirst_some {p : Nat → Bool} {xs ys : List Nat} (h : dropFirst p xs = some ys) :
    ys.Sublist xs ∧ ys.length + 1 = xs.length ∧ ∃ d, p d = true ∧ ∀ x ∈ xs, x ≠ d → x ∈ ys := by
  induction xs generalizing ys with
  | nil => cases h
  | cons x xs ih =>
    simp only [dropFirst] at h
    split at h
    · next hp =>
      injection h with h
      subst h
      exact ⟨List.sublist_cons_self _ _, rfl, x, hp, fun z hz hne => (List.mem_cons.mp hz).resolve_left hne⟩
    · obtain ⟨zs, hzs, rfl⟩ := Option.map_eq_some_iff.mp h
      obtain ⟨hsub, hlen, d, hd, hkeep⟩ := ih hzs
      refine ⟨hsub.cons_cons x, by simp [hlen], d, hd, fun z hz hne => ?_⟩
      rcases List.mem_cons.mp hz with rfl | hz
      · exact List.mem_cons_self
      · exact List.mem_cons_of_mem _ (hkeep z hz hne)

/-- The history a booked episode leaves: the ids that stay, in their order, with the new id as the newest (R59, R81, R82). -/
theorem historyAfter_some {x : State} {h : Handle} {l : Link} {a : Announcement} {ids : List Nat}
    (hids : historyAfter x h l a = some ids) :
    (a.episode = none ∧ ids = l.history) ∨
      ∃ e kept, a.episode = some e ∧ ids = kept ++ [e] ∧ kept.Sublist l.history ∧
        (kept = l.history ∧ l.history.length < Config.historyPlaces ∨
          kept.length + 1 = l.history.length ∧
            ∃ d, carriedLive x h d = false ∧ ∀ z ∈ l.history, z ≠ d → z ∈ kept) := by
  unfold historyAfter at hids
  split at hids
  · next e he =>
    obtain ⟨kept, hkept, rfl⟩ := Option.map_eq_some_iff.mp hids
    refine .inr ⟨e, kept, he, rfl, ?_⟩
    unfold historyWithRoom at hkept
    split at hkept
    · next hroom =>
      injection hkept with hkept
      subst hkept
      exact ⟨.refl _, .inl ⟨rfl, hroom⟩⟩
    · obtain ⟨hsub, hlen, d, hd, hkeep⟩ := dropFirst_some hkept
      exact ⟨hsub, .inr ⟨hlen, d, by simpa using hd, hkeep⟩⟩
  · next he =>
    injection hids with hids
    exact .inl ⟨he, hids.symm⟩

theorem historyAfter_wf {x : State} {h : Handle} {l : Link} {a : Announcement} {ids : List Nat}
    (hids : historyAfter x h l a = some ids) (hnew : ∀ e, a.episode = some e → e ∉ l.history) (hl : LinkWf l) :
    LinkWf { l with status := .active, history := ids } := by
  obtain ⟨h1, h2, h3, h4, h5, hlen, hnodup⟩ := hl
  refine ⟨h1, h2, h3, h4, h5, ?_⟩
  rcases historyAfter_some hids with ⟨-, rfl⟩ | ⟨e, kept, he, rfl, hsub, hroom⟩
  · exact ⟨hlen, hnodup⟩
  · refine ⟨?_, ?_⟩
    · simp only [List.length_append, List.length_singleton]
      rcases hroom with ⟨rfl, hlt⟩ | ⟨hlt, -⟩ <;> omega
    · rw [List.nodup_append]
      refine ⟨hnodup.sublist hsub, by simp, fun z hz w hw => ?_⟩
      rw [List.mem_singleton.mp hw]
      rintro rfl
      exact hnew z he (hsub.subset hz)

theorem withoutEpisode_kept (b : Booking) (i : Nat) (sl : LinkSlot) : KeptLinkSlot sl (withoutEpisode b i sl) := by
  refine keptLinkSlot_map fun l _ => ?_
  split
  · exact ⟨rfl, fun ⟨h1, h2, h3, h4, h5, hlen, hnodup⟩ =>
      ⟨h1, h2, h3, h4, h5, (List.length_filter_le _ _).trans hlen, hnodup.filter _⟩⟩
  · exact ⟨rfl, id⟩

theorem finishBooking_links (x : State) (h : Handle) (b : Booking) (st : BookingState) (reason : Option FinishReason) :
    (finishBooking x h b st reason).links = x.links ∨ HistoryRemoved x (finishBooking x h b st reason) b := by
  cases st with
  | failed => exact .inr (finish_history (.inl rfl))
  | missed => exact .inr (finish_history (.inr rfl))
  | _ => exact .inl rfl

/-- Every link slot after a change is one of before, kept or freed, or a new link in the lowest free slot, or blank. -/
theorem changes_linkSlots {s0 x y : State} (hc : Changes s0 x y) {i : Nat} {new : LinkSlot} (hi : y.links[i]? = some new) :
    (∃ old, x.links[i]? = some old ∧ KeptLinkSlot old new) ∨
      (∃ l, lowestFreeLink x = some i ∧ linkOfSeries x l.seriesId = none ∧ LinkWf l ∧
        new = ⟨tagAfter (linkTagAt x i), some l⟩) ∨ new = ⟨0, none⟩ := by
  have hsame (hl : y.links = x.links) : ∃ old, x.links[i]? = some old ∧ KeptLinkSlot old new :=
    ⟨new, hl ▸ hi, keptLinkSlot_refl new⟩
  have hmap (g : LinkSlot → LinkSlot) (hg : y.links[i]? = (x.links[i]?).map g)
      (hkept : ∀ sl, x.links[i]? = some sl → KeptLinkSlot sl (g sl)) : ∃ old, x.links[i]? = some old ∧ KeptLinkSlot old new := by
    rw [hg, Option.map_eq_some_iff] at hi
    obtain ⟨old, hold, rfl⟩ := hi
    exact ⟨old, hold, hkept old hold⟩
  cases hc with
  | poweredOn => exact .inr (.inr (List.mem_replicate.mp (List.mem_of_getElem? hi)).2)
  | cleared holds _ => exact .inl (hmap _ List.getElem?_map fun sl _ => keptLinkSlot_freed sl)
  | bookedEpisode slot h l a ids _ _ hl hnew hids =>
    refine .inl (hmap (fun sl => if h.slot = i then { sl with link := sl.link.map fun k => { k with history := ids } } else sl)
      ?_ fun sl hsl => ?_)
    · rw [updateLink_slot]
      split
      · rfl
      · simp
    · split
      · next hs =>
        rw [linkOf_eq_some, hs, hsl] at hl
        injection hl with hl
        subst hl
        refine keptLinkSlot_map fun k hk => ⟨rfl, fun hwf => ?_⟩
        injection hk with hk
        subst hk
        exact historyAfter_wf (l := { l with status := .active }) hids hnew hwf
      · exact keptLinkSlot_refl sl
  | finished h b st reason =>
    rcases finishBooking_links x h b st reason with hl | hl
    · exact .inl (hsame hl)
    · exact .inl (hmap _ (hl i) fun sl _ => withoutEpisode_kept b i sl)
  | unlinked h l w =>
    refine .inl (hmap (fun sl => if h.slot = i then { sl with link := none } else sl) ?_ fun sl _ => ?_)
    · unfold removeLink
      rw [freeLink_slot]
      split
      · rfl
      · simp
    · split
      · exact keptLinkSlot_freed sl
      · exact keptLinkSlot_refl sl
  | linkAdded slot l hslot hseries hwf =>
    rw [occupyLink_slot] at hi
    split at hi
    · next hs =>
      subst hs
      obtain ⟨old, -, rfl⟩ := Option.map_eq_some_iff.mp hi
      exact .inr (.inl ⟨l, hslot, hseries, hwf, rfl⟩)
    · exact .inl ⟨new, hi, keptLinkSlot_refl new⟩
  | relinked j f hf =>
    refine .inl (hmap (fun sl => if j = i then { sl with link := sl.link.map f } else sl) ?_ fun sl _ => ?_)
    · rw [updateLink_slot]
      split
      · rfl
      · simp
    · split
      · exact keptLinkSlot_map fun l _ => ⟨(hf l).1, (hf l).2.2⟩
      · exact keptLinkSlot_refl sl
  | none | holdsLost | held | booked | freed | edited | installed | begun | stepped | entered | removed | banded | queued
  | clocked | ticked | timeSet | policySet => exact .inl (hsame rfl)

theorem changes_links_length {s0 x y : State} (hc : Changes s0 x y) (hx : x.links.length = Config.linkSlots) :
    y.links.length = Config.linkSlots := by
  cases hc with
  | poweredOn => rfl
  | cleared holds _ => exact (List.length_map _).trans hx
  | finished h b st reason =>
    rcases finishBooking_links x h b st reason with hl | hl
    · rw [hl]; exact hx
    · rw [length_of_slots _ hl]; exact hx
  | unlinked => simpa [removeLink] using hx
  | bookedEpisode | linkAdded | relinked => simpa using hx
  | none | holdsLost | held | booked | freed | edited | installed | begun | stepped | entered | removed | banded | queued
  | clocked | ticked | timeSet | policySet => exact hx

theorem changes_linksWf {s0 x y : State} (hc : Changes s0 x y) (hx : LinksWf x) : LinksWf y := by
  obtain ⟨hlength, hslots, hlinks⟩ := hx
  refine ⟨changes_links_length hc hlength, fun sl hsl => ?_, ?_⟩
  · obtain ⟨i, hi⟩ := List.mem_iff_getElem?.mp hsl
    rcases changes_linkSlots hc hi with ⟨old, hold, htag, hlink⟩ | ⟨l, -, -, -, rfl⟩ | rfl
    · obtain ⟨hmax, hmin⟩ := hslots old (List.mem_of_getElem? hold)
      rw [htag]
      refine ⟨hmax, fun hsome => hmin ?_⟩
      obtain ⟨k, hk⟩ := Option.isSome_iff_exists.mp hsome
      obtain ⟨l, hl, -⟩ := hlink k hk
      rw [hl]; rfl
    · exact ⟨(tagAfter_range _).2, fun _ => (tagAfter_range _).1⟩
    · exact ⟨Nat.zero_le _, nofun⟩
  · rintro ⟨h, k⟩ hm
    rw [mem_occupiedLinks] at hm
    rcases changes_linkSlots hc hm with ⟨old, hold, htag, hlink⟩ | ⟨l, -, -, hwf, he⟩ | he
    · obtain ⟨l, hl, -, hwf⟩ := hlink k rfl
      refine hwf (hlinks (h, l) ((mem_occupiedLinks x h l).mpr ?_))
      rw [hold]
      cases old
      simp_all
    · simp only [LinkSlot.mk.injEq, Option.some.injEq] at he
      exact he.2 ▸ hwf
    · simp at he

/-! ### The queue and the map -/

theorem checkAnnounce_wf {f : AnnounceFields} {a : Announcement} (hc : checkAnnounce f = some a) (hf : f.wellFormed = true) :
    AnnouncementWf a := by
  unfold checkAnnounce at hc
  split at hc
  · split at hc
    · next hok =>
      injection hc with hc
      subst hc
      simp only [Bool.and_eq_true, isChannel_iff, idAllowed, bne_iff_ne] at hok
      obtain ⟨⟨⟨hchannel, -⟩, hseries⟩, hepisode⟩ := hok
      simp only [AnnounceFields.wellFormed, Bool.and_eq_true, fitsFourBytes, decide_eq_true_eq] at hf
      refine ⟨⟨hchannel, ?_, ?_⟩, hseries, hepisode⟩
      · simp only [announcedShowing, clampDuration, clampBetween]; omega
      · simp only [announcedShowing, Config.topOfTime]; omega
    · cases hc
  · cases hc

theorem changes_queue {s0 x y : State} (hc : Changes s0 x y) (hreq : RequestWf s0) (hx : QueueWf x) : QueueWf y := by
  have hempty (q : List Announcement) (hq : q = []) : q.length ≤ Config.queuePlaces ∧ ∀ a ∈ q, AnnouncementWf a := by
    subst hq
    exact ⟨Nat.zero_le _, nofun⟩
  cases hc with
  | poweredOn => exact hempty _ rfl
  | cleared holds _ => exact hempty _ rfl
  | queued f d a ht hcheck hroom =>
    have hw := taking_wf hreq ht
    refine ⟨by simpa using hroom, fun b hb => ?_⟩
    rcases List.mem_append.mp hb with hold | hnew
    · exact hx.2 b hold
    · exact List.mem_singleton.mp hnew ▸ checkAnnounce_wf hcheck hw
  | finished h b st reason =>
    rw [finishBooking_frame]
    exact hx
  | none | holdsLost | held | booked | bookedEpisode | freed | edited | unlinked | installed | begun | stepped | entered
  | removed | banded | linkAdded | relinked | clocked | ticked | timeSet | policySet => exact hx

/-- An entry put among entries in rising order leaves them in rising order (R25). -/
theorem putEntry_rising (e : ChannelEntry) {es : List ChannelEntry} (h : (es.map fun x => x.channel).Pairwise (· < ·)) :
    ((putEntry e es).map fun x => x.channel).Pairwise (· < ·) := by
  induction es with
  | nil => simp [putEntry]
  | cons x xs ih =>
    rw [List.map_cons, List.pairwise_cons] at h
    obtain ⟨hfirst, hrest⟩ := h
    have hbelow : ∀ y ∈ xs, x.channel < y.channel := fun y hy => hfirst _ (List.mem_map_of_mem hy)
    simp only [putEntry]
    split
    · next hlt =>
      rw [List.map_cons, List.pairwise_cons, List.map_cons, List.pairwise_cons]
      refine ⟨fun n hn => ?_, hfirst, hrest⟩
      rcases List.mem_cons.mp hn with rfl | hn
      · exact hlt
      · exact hlt.trans (hfirst n hn)
    · split
      · next heq =>
        rw [List.map_cons, List.pairwise_cons, heq]
        exact ⟨hfirst, hrest⟩
      · rw [List.map_cons, List.pairwise_cons]
        refine ⟨fun n hn => ?_, ih hrest⟩
        obtain ⟨y, hy, rfl⟩ := List.mem_map.mp hn
        rcases putEntry_mem e xs y hy with rfl | hy
        · omega
        · exact hbelow y hy

/-- An entry put in place of one of its channel adds none; a new one adds one (R25). -/
theorem putEntry_length (e : ChannelEntry) (es : List ChannelEntry) :
    (putEntry e es).length ≤ es.length + 1 ∧
      ((es.map fun x => x.channel).Pairwise (· < ·) → (∃ x ∈ es, x.channel = e.channel) → (putEntry e es).length = es.length) := by
  induction es with
  | nil => exact ⟨Nat.le_refl _, by simp⟩
  | cons x xs ih =>
    obtain ⟨hle, hsame⟩ := ih
    simp only [putEntry]
    split
    · next hlt =>
      refine ⟨Nat.le_refl _, fun hsorted ⟨y, hy, hc⟩ => ?_⟩
      rw [List.map_cons, List.pairwise_cons] at hsorted
      rcases List.mem_cons.mp hy with rfl | hy
      · omega
      · have := hsorted.1 _ (List.mem_map_of_mem hy)
        omega
    · split
      · exact ⟨Nat.le_succ _, fun _ _ => rfl⟩
      · next hne =>
        refine ⟨Nat.succ_le_succ hle, fun hsorted ⟨y, hy, hc⟩ => ?_⟩
        rw [List.map_cons, List.pairwise_cons] at hsorted
        rcases List.mem_cons.mp hy with rfl | hy
        · exact absurd hc.symm hne
        · simpa using hsame hsorted.2 ⟨y, hy, hc⟩

theorem setEntries_mapWf {x : State} (es : List ChannelEntry) (hlength : es.length ≤ Config.mapPlaces)
    (hrising : (es.map fun e => e.channel).Pairwise (· < ·))
    (hall : ∀ e ∈ es, (1 ≤ e.channel ∧ e.channel ≤ 9999) ∧ 1 ≤ e.mux ∧ e.mux ≤ 4095) : MapWf (setEntries x es) :=
  ⟨hlength, hrising, hall⟩

theorem changes_map {s0 x y : State} (hc : Changes s0 x y) (hx : MapWf x) : MapWf y := by
  obtain ⟨hlength, hrising, hall⟩ := hx
  cases hc with
  | poweredOn => exact ⟨Nat.zero_le _, .nil, nofun⟩
  | entered e hchannel hmux hroom =>
    refine setEntries_mapWf _ ?_ (putEntry_rising e hrising) fun f hf => ?_
    · rcases hroom with hentry | hroom
      · obtain ⟨f, hf⟩ := Option.isSome_iff_exists.mp hentry
        have hsame : f.channel = e.channel := by simpa using List.find?_some hf
        rw [(putEntry_length e x.map.entries).2 hrising ⟨f, List.mem_of_find?_eq_some hf, hsame⟩]
        exact hlength
      · exact (putEntry_length e x.map.entries).1.trans hroom
    · rcases putEntry_mem e _ f hf with rfl | hold
      · exact ⟨(isChannel_iff _).mp hchannel, by simpa [isMux] using hmux⟩
      · exact hall f hold
  | removed channel =>
    refine setEntries_mapWf _ ((List.length_filter_le _ _).trans hlength) ?_ fun f hf => hall f (List.mem_of_mem_filter hf)
    exact hrising.sublist (List.filter_sublist.map _)
  | finished h b st reason =>
    rw [finishBooking_frame]
    exact ⟨hlength, hrising, hall⟩
  | none | cleared | holdsLost | held | booked | bookedEpisode | freed | edited | unlinked | installed | begun | stepped
  | queued | banded | linkAdded | relinked | clocked | ticked | timeSet | policySet => exact ⟨hlength, hrising, hall⟩

/-! ### O53 -/

/-- The stores but for the request in process. -/
def TablesWf (s : State) : Prop :=
  BookingSlotsWf s ∧ (∀ e ∈ occupied s, FieldsWf e.2) ∧ LinksWf s ∧ QueueWf s ∧ MapWf s

theorem storesWf_iff (s : State) : StoresWf s ↔ TablesWf s ∧ RequestWf s := by
  unfold StoresWf TablesWf RequestWf
  tauto

theorem changes_tables {s0 x y : State} (hreq : RequestWf s0) (hs : TablesWf s0) (hx : TablesWf x) (hc : Changes s0 x y) :
    TablesWf y := by
  obtain ⟨hslots, hfields, hlinks, hqueue, hmap⟩ := hx
  refine ⟨changes_slotsWf hc hslots, ?_, changes_linksWf hc hlinks, changes_queue hc hreq hqueue, changes_map hc hmap⟩
  rintro ⟨h, c⟩ hm
  rcases changes_arises hc hm with ⟨b, hb, he⟩ | ⟨-, -, hnew, -⟩
  · exact edit_fields he hreq hs.2.2.2.1 (hfields _ hb)
  · exact creates_fields hnew hreq hs.2.2.2.1 hlinks

theorem popped_tables {x : State} {a : Announcement} {rest : List Announcement} (hq : x.queue = a :: rest) (hx : TablesWf x) :
    TablesWf { x with queue := rest } := by
  obtain ⟨hslots, hfields, hlinks, ⟨hlength, hall⟩, hmap⟩ := hx
  rw [hq] at hlength hall
  exact ⟨hslots, hfields, hlinks, ⟨(Nat.le_succ _).trans hlength, fun b hb => hall b (List.mem_cons_of_mem _ hb)⟩, hmap⟩

/-- Settles O53: every change keeps each table, and the request in process spells fields within their bytes. -/
theorem storesStayWellFormed : Obligations.StoresStayWellFormed := by
  intro s t hs ht
  rw [storesWf_iff] at hs ⊢
  refine step_keeps_with_request (fun _ _ _ _ h => h) (fun _ _ _ hq hx => popped_tables hq hx)
    (fun _ _ _ hreq h0 hx hc => changes_tables hreq h0 hx hc) (fun y t hy hsame => ?_) s t hs ht
  rw [hsame]
  exact hy

end Sys2Proof.Machine
end

section
/-! PROOF. The clock, the policy and the planner stay in their ranges (O54). -/

namespace Sys2Proof.Machine

/-! ### The clock -/

/-- A second that begins within its length has its length fixed in its range (R158). -/
theorem beginSecond_wf {c : Clock} {divider : Nat} (hseconds : c.seconds ≤ Config.topOfTime)
    (htrim : -256 ≤ c.trim ∧ c.trim ≤ 255) (hslew : -128 ≤ c.slew ∧ c.slew ≤ 128) (helapsed : c.elapsed < twoTo32)
    (hdivider : divider < lengthFor c.trim (slewSign c.slew)) : ClockWf (beginSecond c divider) := by
  have hsign := slewSign_bounds c.slew
  have hlength : 32000 ≤ lengthFor c.trim (slewSign c.slew) ∧ lengthFor c.trim (slewSign c.slew) ≤ 33535 := by
    simp only [lengthFor, Config.crystalCounts, Config.sixtyFourth]
    omega
  exact ⟨hseconds, hdivider, hlength.1, hlength.2, htrim, hslew, hsign, helapsed⟩

theorem slewAfterTick_bounds {s z : Int} (hz : -128 ≤ z ∧ z ≤ 128) : -128 ≤ slewAfterTick s z ∧ slewAfterTick s z ≤ 128 := by
  unfold slewAfterTick
  split
  · omega
  · split <;> omega

theorem tickClock_wf {c : Clock} (h : ClockWf c) : ClockWf (tickClock c) := by
  obtain ⟨-, -, -, -, htrim, hslew, -, -⟩ := h
  have hnew := slewAfterTick_bounds (s := c.secondSlew) hslew
  refine beginSecond_wf (Nat.min_le_left _ _) htrim hnew (Nat.mod_lt _ (by decide)) ?_
  have hsign := slewSign_bounds (slewAfterTick c.secondSlew c.slew)
  simp only [lengthFor, Config.crystalCounts, Config.sixtyFourth]
  omega

theorem stepClock_wf {c : Clock} {seconds part : Nat} (hs : seconds < 4294967296) (hpart : part ≤ 63) (h : ClockWf c) :
    ClockWf (stepClock c seconds part) := by
  obtain ⟨-, -, -, -, htrim, -, -, helapsed⟩ := h
  refine beginSecond_wf ?_ htrim ⟨by simp, by simp⟩ helapsed ?_
  · show seconds ≤ Config.topOfTime
    simp only [Config.topOfTime]
    omega
  · simp only [lengthFor, slewSign, Config.crystalCounts, Config.sixtyFourth]
    omega

theorem resetClock_wf : ClockWf resetClock := by unfold ClockWf; decide

theorem changes_clock {s0 x y : State} (hreq : RequestWf s0) (hc : Changes s0 x y) (hx : ClockWf x.clock) : ClockWf y.clock := by
  cases hc with
  | poweredOn => exact resetClock_wf
  | clocked c _ _ _ hwf => exact hwf hx
  | ticked => exact tickClock_wf hx
  | timeSet seconds part force d ht hpart =>
    have hw := taking_wf hreq ht
    simp only [Request.wellFormed, Bool.and_eq_true, fitsFourBytes, decide_eq_true_eq] at hw
    exact stepClock_wf hw.1.1 hpart hx
  | finished h b st reason => rw [finishBooking_frame]; exact hx
  | none | cleared | holdsLost | held | booked | bookedEpisode | freed | edited | unlinked | installed | begun | stepped
  | entered | queued | removed | banded | linkAdded | relinked | policySet => exact hx

/-! ### The policy -/

theorem checkPolicy_wf {f : PolicyFields} {p : Policy} (h : checkPolicy f = some p) : PolicyWf p := by
  unfold checkPolicy at h
  split at h
  · split at h
    · next hweights =>
      injection h with h
      subst h
      simp only [Bool.and_eq_true, isWeight_iff] at hweights
      obtain ⟨⟨⟨h1, h2⟩, h3⟩, h4⟩ := hweights
      refine ⟨?_, ?_⟩
      · intro w hw
        simp only [clampPolicy, List.mem_cons, List.not_mem_nil, or_false] at hw
        rcases hw with rfl | rfl | rfl | rfl <;> assumption
      · simp only [clampPolicy, clampBetween]
        omega
    · cases h
  · cases h

theorem resetPolicy_wf : PolicyWf resetPolicy := by unfold PolicyWf; decide

theorem changes_policy {s0 x y : State} (hc : Changes s0 x y) (hx : PolicyWf x.policy) : PolicyWf y.policy := by
  cases hc with
  | poweredOn => exact resetPolicy_wf
  | policySet f p hp => exact checkPolicy_wf hp
  | finished h b st reason => rw [finishBooking_frame]; exact hx
  | none | cleared | holdsLost | held | booked | bookedEpisode | freed | edited | unlinked | installed | begun | stepped
  | entered | queued | removed | banded | linkAdded | relinked | clocked | ticked | timeSet => exact hx

/-! ### The planner -/

theorem occupied_length (s : State) : (occupied s).length ≤ s.bookings.length := by
  unfold occupied
  exact (List.length_filterMap_le _ _).trans (by simp)

theorem placementOrder_length (s : State) : (placementOrder s).length ≤ s.bookings.length := by
  rw [(placementOrder_perm s).length_eq, List.length_map]
  exact (List.length_filter_le _ _).trans (occupied_length s)

theorem placementOrder_nodup (s : State) : ((placementOrder s).map fun e => e.handle.slot).Nodup := by
  have hperm : (placementOrder s).Perm ((ranked s).map fun r => r.entry) := (sortRanked_perm _).map _
  have hslots := ranked_slots_nodup s
  rw [(hperm.map _).nodup_iff, List.map_map]
  exact hslots

theorem stepRecord_results_length (x : State) (p : PassRecord) (e : OrderEntry) :
    (stepRecord x p e).results.length ≤ p.results.length + 1 := by
  unfold stepRecord
  split
  · omega
  · split
    · simp
    all_goals simp

/-- A step's pass record agrees with the step counts (R106, R116). -/
theorem stepRecord_wf {x : State} {p : PassRecord} {e : OrderEntry} {done total : Nat} (hp : PassWf done total p)
    (he : p.order[done]? = some e) : PassWf (done + 1) total (stepRecord x p e) := by
  obtain ⟨horder, hnodup, hcount, hknown, hlimit⟩ := hp
  obtain ⟨hsame, hstream⟩ := stepRecord_fixed x p e
  refine ⟨by rw [hsame]; exact horder, by rw [hsame]; exact hnodup,
    (stepRecord_results_length x p e).trans (Nat.succ_le_succ hcount), fun r hr => ?_, by rw [hstream]; exact hlimit⟩
  rw [hsame]
  rcases stepRecord_results hr with hold | ⟨b, -, -, rfl⟩
  · exact hknown r hold
  · exact List.mem_map_of_mem (f := fun e : OrderEntry => e.handle) (List.mem_of_getElem? he)

theorem resetPlanner_wf : PlannerWf resetPlanner :=
  ⟨by decide, by decide, by decide, by decide, nofun, nofun⟩

theorem changes_planner {s0 x y : State} (hc : Changes s0 x y) (hx : PlanningWf x) : PlannerWf y.planner := by
  obtain ⟨hpolicy, hplanner, hslots⟩ := hx
  have hx := hplanner
  obtain ⟨habandoned, hrevision, hdone, htotal, htime, hpass⟩ := hx
  cases hc with
  | poweredOn => exact resetPlanner_wf
  | cleared holds _ => exact ⟨Nat.zero_le _, Nat.le_of_lt_succ (Nat.mod_lt _ (by decide)), Nat.le_refl _, Nat.zero_le _, nofun, nofun⟩
  | installed p hp =>
    exact ⟨Nat.zero_le _, Nat.le_of_lt_succ (Nat.mod_lt _ (by decide)), hdone, htotal, nofun, nofun⟩
  | begun n hn =>
    have hlength : (placementOrder x).length ≤ 128 := (placementOrder_length x).trans (Nat.le_of_eq hslots)
    refine ⟨?_, hrevision, Nat.zero_le _, hlength, fun _ => rfl, fun r hr => ?_⟩
    · rcases hn with rfl | hn
      · exact habandoned
      · exact hn
    · rw [← Option.mem_toList.mp hr |> Option.some.inj]
      exact ⟨rfl, placementOrder_nodup x, Nat.le_refl _, nofun, hpolicy.2.1⟩
  | stepped p e hp hlt he =>
    refine ⟨habandoned, hrevision, hlt, htotal, fun _ => htime (by rw [hp]; rfl), fun r hr => ?_⟩
    rw [← Option.mem_toList.mp hr |> Option.some.inj]
    exact stepRecord_wf (hpass p (by rw [hp]; simp)) he
  | finished h b st reason => rw [finishBooking_frame]; exact hplanner
  | none | holdsLost | held | booked | bookedEpisode | freed | edited | unlinked | policySet
  | entered | queued | removed | banded | linkAdded | relinked | clocked | ticked | timeSet => exact hplanner

/-- The number of booking slots is fixed. -/
theorem changes_bookings_length {s0 x y : State} (hc : Changes s0 x y) (hx : x.bookings.length = Config.bookingSlots) :
    y.bookings.length = Config.bookingSlots := by
  cases hc with
  | poweredOn => rfl
  | finished h b st reason => rw [finishBooking_bookings]; simpa using hx
  | cleared | ticked | timeSet => exact (List.length_map _).trans hx
  | unlinked h l w => exact (List.length_map _).trans hx
  | installed p _ => simpa [installPass, installSlots] using hx
  | booked | bookedEpisode | freed | edited => simpa using hx
  | none | holdsLost | held | begun | stepped | policySet
  | entered | queued | removed | banded | linkAdded | relinked | clocked => exact hx

theorem changes_planning {s0 x y : State} (hc : Changes s0 x y) (hx : PlanningWf x) : PlanningWf y :=
  ⟨changes_policy hc hx.1, changes_planner hc hx, changes_bookings_length hc hx.2.2⟩

/-! ### O54 -/

/-- Settles O54: every change keeps the clock, the policy and the planner in their ranges. -/
theorem clockAndPlannerStayInRange : Obligations.ClockAndPlannerStayInRange := by
  intro s t ⟨hclock, hplanning, hreq⟩ ht
  have h := step_keeps_with_request (I := fun s => ClockWf s.clock ∧ PlanningWf s) (fun _ _ _ _ h => h) (fun _ _ _ _ h => h)
    (fun _ _ _ hreq _ hx hc => ⟨changes_clock hreq hc hx.1, changes_planning hc hx.2⟩)
    (fun y t hy hsame => by rw [hsame]; exact hy) s t ⟨⟨hclock, hplanning⟩, hreq⟩ ht
  exact ⟨h.1.1, h.1.2, h.2⟩

end Sys2Proof.Machine
end

section
/-! PROOF. Pairs and series ids stay unique, link references current, and live episodes in their histories (O56). -/

namespace Sys2Proof.Machine

/-! ### Pairs -/

/-- Two records carry the same showings. -/
def SameShowings (b c : Booking) : Prop := c.primary = b.primary ∧ c.alternative = b.alternative

theorem sameShowings_pair {b c : Booking} (h : SameShowings b c) (u : ShowingUsed) : pairNamed c u = pairNamed b u := by
  cases u with
  | primary => simp only [pairNamed, showingNamed, h.1]
  | alternative => simp only [pairNamed, showingNamed, h.2]

theorem sameShowings_installInto (p : PassRecord) (h : Handle) (b : Booking) : SameShowings b (installInto p h b) := by
  unfold installInto
  split
  · split <;> exact ⟨rfl, rfl⟩
  · exact ⟨rfl, rfl⟩

theorem sameShowings_reached (y : State) (b : Booking) : SameShowings b (reachClosePoint y b) := by
  unfold reachClosePoint
  split <;> exact ⟨rfl, rfl⟩

theorem sameShowings_lightly {x y : State} {h : Handle} {b c : Booking} (hl : Lightly x y h b c) : SameShowings b c := by
  cases hl with
  | same | unlinked | finished => exact ⟨rfl, rfl⟩
  | installed p => exact sameShowings_installInto p h b
  | reached => exact sameShowings_reached y b

/-- A change writes new showings to one slot at most. -/
theorem changes_showings {s0 x y : State} (hc : Changes s0 x y) :
    ∃ slot, ∀ h c, (h, c) ∈ occupied y → h.slot ≠ slot → ∃ b, (h, b) ∈ occupied x ∧ SameShowings b c := by
  rcases changes_lightly hc with ⟨g, b, d, hb, -, rfl⟩ | hlight
  · refine ⟨g.slot, fun h c hm hs => ?_⟩
    rcases occupied_update hb hm with ⟨rfl, -⟩ | ⟨-, hx⟩
    · exact absurd rfl hs
    · exact ⟨c, hx, rfl, rfl⟩
  · refine ⟨(lowestFreeBooking x).getD 0, fun h c hm hs => ?_⟩
    rcases hlight h c hm with ⟨hfree, -⟩ | ⟨b, hb, hl⟩
    · rw [hfree] at hs
      exact absurd rfl hs
    · exact ⟨b, hb, sameShowings_lightly hl⟩

/-- The pairs of a record may stand in a slot: no other slot has them, and its showings do not share one (R7). -/
def PairsFit (x : State) (slot : Nat) (c : Booking) : Prop :=
  (∀ u ∈ bothShowings, ¬ PairStands x (some slot) (pairNamed c u)) ∧
    ((pairNamed c .primary).isSome = true → pairNamed c .primary ≠ pairNamed c .alternative)

theorem pairsFit_of_unique {x : State} (hx : PairsUnique x) {h : Handle} {b : Booking} (hb : (h, b) ∈ occupied x) :
    PairsFit x h.slot b := by
  refine ⟨fun u hu hstands => ?_, fun hsome heq => ?_⟩
  · obtain ⟨hsome, e, he, hne, v, hv, hpair⟩ := hstands
    exact hne (congrArg some (hx (h, b) hb e he u hu v hv hsome hpair.symm).1)
  · have := (hx (h, b) hb (h, b) hb .primary (by simp [bothShowings]) .alternative (by simp [bothShowings]) hsome heq).2
    cases this

theorem pairsFit_of_pairs {x : State} {slot : Nat} {b c : Booking} (hb : PairsFit x slot b)
    (hc : ∀ u, pairNamed c u = pairNamed b u) : PairsFit x slot c := by
  unfold PairsFit at hb ⊢
  simp only [hc]
  exact hb

/-- Showings that are no duplicates fit (R7). -/
theorem pairsFit_of_not_duplicates {x : State} {slot : Nat} {c : Booking} {but : Option Nat}
    (hbut : ∀ e ∈ occupied x, some slot ≠ some e.1.slot → but ≠ some e.1.slot)
    (hd : duplicates x but c.primary c.alternative = false) : PairsFit x slot c := by
  have hnot : ¬ DuplicateShowings x but c.primary c.alternative := by rw [← duplicates_iff, hd]; decide
  have hstands (p : Option (Nat × Nat)) (hp : PairStands x (some slot) p) : PairStands x but p := by
    obtain ⟨hsome, e, he, hne, hpair⟩ := hp
    exact ⟨hsome, e, he, hbut e he hne, hpair⟩
  refine ⟨fun u _ hu => hnot ?_, fun hsome heq => hnot (.inr (.inr ⟨hsome, heq⟩))⟩
  cases u with
  | primary => exact .inl (hstands _ hu)
  | alternative => exact .inr (.inl (hstands _ hu))

theorem retimed_showings (x : State) (newPost : Option Nat) (b : Booking) : SameShowings b (retimed x newPost b) := by
  rw [(retimed_frame x newPost b).1]
  exact ⟨rfl, rfl⟩

theorem reshown_pair {x : State} {h : Handle} {b : Booking} (u : ShowingUsed) {g : Showing → Showing} (st : RunningStatus)
    (hg : ∀ v, pairOf (g v) = pairOf v) (v : ShowingUsed) : pairNamed (reshown x h b u g st) v = pairNamed b v := by
  cases u with
  | primary =>
    cases v with
    | primary => exact hg b.primary
    | alternative => rfl
  | alternative =>
    cases v with
    | primary => rfl
    | alternative =>
      show ((b.alternative.map g).bind pairOf) = b.alternative.bind pairOf
      cases b.alternative with
      | none => rfl
      | some w => exact hg w

/-- An amend that R15 allows leaves the pairs of a running booking (R15). -/
theorem runningAmend_pair {b : Booking} {f : AmendBookingFields} (h : runningAmendAllowed b f = true) (x : State) (g : Handle)
    (u : ShowingUsed) : pairNamed (amended x g b f) u = pairNamed b u := by
  have hduration {v w : Option Showing} (hs : sameButDuration v w = true) : optionPair w = optionPair v := by
    unfold sameButDuration at hs
    split at hs
    · rw [beq_iff_eq] at hs
      rw [← hs]
      rfl
    · rfl
    · cases hs
  have hshowings : optionPair (some f.primary) = optionPair (some b.primary) ∧
      optionPair f.alternative = optionPair b.alternative := by
    simp only [runningAmendAllowed, Bool.and_eq_true] at h
    obtain ⟨-, h⟩ := h
    split at h
    · simp only [Bool.and_eq_true, beq_iff_eq] at h
      exact ⟨hduration h.1, by rw [h.2]⟩
    · simp only [Bool.and_eq_true, beq_iff_eq] at h
      exact ⟨by rw [h.1], hduration h.2⟩
  cases u with
  | primary => exact hshowings.1
  | alternative => exact hshowings.2

theorem refit_pair {s0 x : State} {h : Handle} {b c : Booking} (hr : Refit s0 x h b c) (u : ShowingUsed) :
    pairNamed c u = pairNamed b u := by
  have hretimed (d : Booking) (newPost : Option Nat) (cond : Bool) :
      pairNamed (if cond then retimed x newPost d else d) u = pairNamed d u := by
    split
    · exact sameShowings_pair (retimed_showings x newPost d) u
    · rfl
  cases hr with
  | amended f d _ _ _ hallowed => exact (hretimed _ _ _).trans (runningAmend_pair hallowed x h u)
  | announced a => exact (hretimed _ none _).trans (reshown_pair _ _ (g := announcedDuration a) (fun _ => rfl) u)

theorem edit_pairsFit {s0 x y : State} {h : Handle} {b c : Booking} (he : Edit s0 x y h b c) (hx : PairsUnique x)
    (hb : (h, b) ∈ occupied x) : PairsFit x h.slot c := by
  have hfit := pairsFit_of_unique hx hb
  have hsame {d : Booking} (hd : SameShowings b d) : PairsFit x h.slot d := pairsFit_of_pairs hfit (sameShowings_pair hd)
  cases he with
  | same | marked | unlinked | resulted | confirmed | started | extended | finished => exact hsame ⟨rfl, rfl⟩
  | reached => exact hsame (sameShowings_reached y b)
  | rescheduled f d st _ _ _ hd => exact pairsFit_of_not_duplicates (fun _ _ hne => hne) hd
  | announced a u st _ _ _ => exact pairsFit_of_pairs hfit (reshown_pair u st fun _ => rfl)
  | attached a _ _ _ hp =>
    refine ⟨fun u hu hstands => ?_, fun hsome heq => hp ⟨rfl, (h, b), hb, nofun, .primary, by simp [bothShowings], heq⟩⟩
    cases u with
    | primary => exact hfit.1 .primary hu hstands
    | alternative =>
      obtain ⟨-, e, he, -, hpair⟩ := hstands
      exact hp ⟨rfl, e, he, nofun, hpair⟩
  | refitted hr => exact pairsFit_of_pairs hfit (refit_pair hr)

theorem creates_pairsFit {s0 x : State} {slot : Nat} {c : Booking} (hc : Creates s0 x c) : PairsFit x slot c := by
  cases hc with
  | manual f d _ _ hd => exact pairsFit_of_not_duplicates (but := none) (fun _ _ _ => nofun) hd
  | series h l a _ _ hp _ =>
    refine ⟨fun u _ hstands => ?_, fun _ => by simp [pairNamed, showingNamed, seriesBooking, announcedShowing, optionPair, pairOf]⟩
    obtain ⟨hsome, e, he, -, hpair⟩ := hstands
    cases u with
    | primary => exact hp ⟨rfl, e, he, nofun, hpair⟩
    | alternative => cases hsome

theorem changes_pairs {s0 x y : State} (hx : PairsUnique x) (hc : Changes s0 x y) : PairsUnique y := by
  have hfit {h : Handle} {c : Booking} (hm : (h, c) ∈ occupied y) : PairsFit x h.slot c := by
    rcases changes_arises hc hm with ⟨b, hb, he⟩ | ⟨-, -, hnew, -⟩
    · exact edit_pairsFit he hx hb
    · exact creates_pairsFit hnew
  obtain ⟨slot, hothers⟩ := changes_showings hc
  /- Of two bookings in two slots at least one has its showings from before, and stands in the way of the other. -/
  have hapart {g h : Handle} {b c : Booking} {u v : ShowingUsed} (hb : (g, b) ∈ occupied y) (hc : (h, c) ∈ occupied y)
      (hu : u ∈ bothShowings) (hv : v ∈ bothShowings)
      (hsome : (pairNamed b u).isSome = true) (heq : pairNamed b u = pairNamed c v) (hs : g.slot ≠ slot) :
      g.slot = h.slot := by
    by_contra hne
    obtain ⟨d, hd, hshow⟩ := hothers g b hb hs
    refine (hfit hc).1 v hv ⟨heq ▸ hsome, (g, d), hd, fun h1 => hne (Option.some.inj h1).symm, u, hu, ?_⟩
    rw [← sameShowings_pair hshow u, heq]
  rintro ⟨g, b⟩ hb ⟨h, c⟩ hc' u hu v hv hsome heq
  have hslots : g.slot = h.slot := by
    by_cases hg : g.slot = slot
    · by_cases hh : h.slot = slot
      · rw [hg, hh]
      · exact (hapart hc' hb hv hu (heq ▸ hsome) heq.symm hh).symm
    · exact hapart hb hc' hu hv hsome heq hg
  refine ⟨hslots, ?_⟩
  obtain ⟨rfl, rfl⟩ := occupied_slot_unique hb hc' hslots
  have hinner := (hfit hb).2
  cases u <;> cases v
  · rfl
  · exact absurd heq (hinner hsome)
  · exact absurd heq.symm (hinner (heq ▸ hsome))
  · rfl

/-! ### Series ids -/

theorem changes_series {s0 x y : State} (hx : SeriesUnique x) (hc : Changes s0 x y) : SeriesUnique y := by
  /- A link after the change is one of before with its series id, or the new one, whose series id no link carried. -/
  have hview {h : Handle} {k : Link} (hm : (h, k) ∈ occupiedLinks y) :
      (∃ l, (h, l) ∈ occupiedLinks x ∧ k.seriesId = l.seriesId) ∨
        (lowestFreeLink x = some h.slot ∧ linkOfSeries x k.seriesId = none) := by
    rw [mem_occupiedLinks] at hm
    rcases changes_linkSlots hc hm with ⟨old, hold, htag, hlink⟩ | ⟨l, hslot, hseries, -, he⟩ | he
    · obtain ⟨l, hl, hid, -⟩ := hlink k rfl
      refine .inl ⟨l, (mem_occupiedLinks x h l).mpr ?_, hid⟩
      rw [hold]
      cases old
      simp_all
    · simp only [LinkSlot.mk.injEq, Option.some.injEq] at he
      exact .inr ⟨hslot, he.2 ▸ hseries⟩
    · simp at he
  have hnew {g h : Handle} {k l : Link} (hl : (h, l) ∈ occupiedLinks x) (hid : k.seriesId = l.seriesId)
      (hnone : linkOfSeries x k.seriesId = none) : g.slot = h.slot := by
    have := List.find?_eq_none.mp hnone (h, l) hl
    simp [hid] at this
  rintro ⟨g, k⟩ hk ⟨h, m⟩ hm hid
  dsimp only at hid
  rcases hview hk with ⟨l, hl, hkl⟩ | ⟨hfree, hnone⟩
  · rcases hview hm with ⟨n, hn, hmn⟩ | ⟨-, hnone⟩
    · exact hx (g, l) hl (h, n) hn (hkl.symm.trans (hid.trans hmn))
    · exact (hnew hl (hid.symm.trans hkl) hnone).symm
  · rcases hview hm with ⟨n, hn, hmn⟩ | ⟨hfree', -⟩
    · exact hnew hn (hid.trans hmn) hnone
    · exact Option.some.inj (hfree.symm.trans hfree')

/-! ### Link references and episodes -/

/-- The booking has no link reference, or is one of before with its link and episode, live only if it was. -/
def Descends (x : State) (h : Handle) (c : Booking) : Prop :=
  c.link = none ∨ ∃ b, (h, b) ∈ occupied x ∧ c.link = b.link ∧ c.episode = b.episode ∧
    (c.state.isLive = true → b.state.isLive = true)

theorem edit_descends {s0 x y : State} {h : Handle} {b c : Booking} (he : Edit s0 x y h b c) (hb : (h, b) ∈ occupied x) :
    Descends x h c := by
  have hkept {d : Booking} (hl : d.link = b.link) (hep : d.episode = b.episode)
      (hst : d.state.isLive = true → b.state.isLive = true) : Descends x h d := .inr ⟨b, hb, hl, hep, hst⟩
  cases he with
  | unlinked => exact .inl rfl
  | same | marked | resulted | rescheduled | attached => exact hkept rfl rfl id
  | reached => unfold reachClosePoint; split <;> exact hkept rfl rfl id
  | confirmed hst => exact hkept rfl rfl fun _ => by rw [hst]; rfl
  | started p key hp _ _ => exact hkept rfl rfl fun _ => by rw [currentPlacement_scheduled hp]; rfl
  | extended => exact hkept rfl rfl id
  | finished st reason hm =>
    refine hkept rfl rfl fun hlive => ?_
    have hfin := (mayFinish_cases hm).2.1
    rw [show (finished x st reason b).state = st from rfl, BookingState.isLive, hfin] at hlive
    cases hlive
  | announced a u st => rw [reshown_frame]; exact hkept rfl rfl id
  | refitted hr => rw [(refit_frame hr).1]; exact hkept rfl rfl id

theorem changes_descends {s0 x y : State} (hc : Changes s0 x y) {h : Handle} {c : Booking} (hm : (h, c) ∈ occupied y) :
    Descends x h c ∨ BooksEpisode x y c := by
  rcases changes_arises hc hm with ⟨b, hb, he⟩ | ⟨-, -, -, hnone | hbooks⟩
  · exact .inl (edit_descends he hb)
  · exact .inl (.inl hnone)
  · exact .inr hbooks

theorem linkOf_slot_unique {s : State} {g h : Handle} {k l : Link} (hk : linkOf s g = some k) (hl : linkOf s h = some l)
    (hs : g.slot = h.slot) : g = h ∧ k = l := by
  rw [linkOf_eq_some] at hk hl
  rw [hs, hl] at hk
  cases g; cases h
  simp_all

theorem linkOf_congr {s t : State} (h : t.links = s.links) (g : Handle) : linkOf t g = linkOf s g := by
  unfold linkOf linkTagAt linkAt
  rw [h]

theorem isLiveEpisode_iff (h : Handle) (id : Nat) (b : Booking) :
    isLiveEpisode h id b = true ↔ b.state.isLive = true ∧ b.link = some h ∧ b.episode = some id := by
  simp [isLiveEpisode, and_assoc]

/-- Some live booking of the link carries the episode id. -/
def LiveEpisode (s : State) (g : Handle) (id : Nat) : Prop := ∃ e ∈ occupied s, isLiveEpisode g id e.2 = true

/-- A link that a booking still names stands after a change, with the ids that its live bookings carry. -/
def LinkStands (y : State) (g : Handle) (l : Link) : Prop :=
  ∃ k, linkOf y g = some k ∧ ∀ id ∈ l.history, LiveEpisode y g id → id ∈ k.history

theorem linkStands_same {x y : State} {g : Handle} {l : Link} (hl : linkOf x g = some l) (hy : y.links = x.links) :
    LinkStands y g l := ⟨l, (linkOf_congr hy g).trans hl, fun _ hid _ => hid⟩

/-- A link whose slot a change leaves alone stands. -/
theorem linkStands_other {x y : State} {g : Handle} {l : Link} (hl : linkOf x g = some l)
    (hy : y.links[g.slot]? = x.links[g.slot]?) : LinkStands y g l :=
  ⟨l, by rw [linkOf_eq_some] at hl ⊢; rw [hy, hl], fun _ hid _ => hid⟩

/-- A link whose record a change maps. -/
theorem linkOf_slot_map {x y : State} {g : Handle} {l : Link} (f : Link → Link) (hl : linkOf x g = some l)
    (hy : y.links[g.slot]? = (x.links[g.slot]?).map fun sl => { sl with link := sl.link.map f }) :
    linkOf y g = some (f l) := by
  rw [linkOf_eq_some] at hl ⊢
  rw [hy, hl]; rfl

theorem finished_linkStands {x : State} (hx : LinksKept x) {g h : Handle} {l : Link} {b : Booking} {st : BookingState}
    {reason : Option FinishReason} (hl : linkOf x g = some l) (hb : (h, b) ∈ occupied x)
    (hm : mayFinish b.state st reason = true) : LinkStands (finishBooking x h b st reason) g l := by
  rcases finishBooking_links x h b st reason with hsame | hremoved
  · exact linkStands_same hl hsame
  · obtain ⟨-, hfin, hlive, -, -⟩ := mayFinish_cases hm
    have hslot := (linkOf_eq_some x g l).mp hl
    by_cases hlink : b.link = some g
    · refine ⟨{ l with history := l.history.filter fun id => b.episode != some id }, ?_, fun id hid ⟨⟨i, c⟩, hc, hlc⟩ => ?_⟩
      · rw [linkOf_eq_some, hremoved, hslot]
        simp [withoutEpisode, hlink]
      · refine List.mem_filter.mpr ⟨hid, ?_⟩
        rw [bne_iff_ne]
        intro hep
        /- The finished booking carried the id live, so another that carries it is in its slot, where it is finished. -/
        have hbook : isLiveEpisode g id b = true := (isLiveEpisode_iff g id b).mpr ⟨by rw [BookingState.isLive, hlive]; rfl, hlink, hep⟩
        have hwritten : (h, finished x st reason b) ∈ occupied (finishBooking x h b st reason) := by
          rw [occupied_congr (finishBooking_bookings x h b st reason), updateBooking_eq_const _ hb]
          exact occupied_written _ hb
        rw [occupied_congr (finishBooking_bookings x h b st reason), updateBooking_eq_const _ hb] at hc
        rcases occupied_update hb hc with ⟨rfl, rfl⟩ | ⟨hne, hcx⟩
        · have := ((isLiveEpisode_iff g id _).mp hlc).1
          rw [show (finished x st reason b).state = st from rfl, BookingState.isLive, hfin] at this
          cases this
        · exact hne ((hx.2 (h, b) hb g (by simp [hlink]) id (by simp [hep]) hbook).2 (i, c) hcx hlc)
    · refine ⟨l, ?_, fun _ hid _ => hid⟩
      rw [linkOf_eq_some, hremoved, hslot]
      simp [withoutEpisode, hlink]

theorem carriedLive_iff (s : State) (h : Handle) (id : Nat) : carriedLive s h id = true ↔ LiveEpisode s h id := by
  unfold carriedLive bookingsOf LiveEpisode
  simp only [List.any_eq_true, List.mem_filter, isLiveEpisode_iff, beq_iff_eq, Bool.and_eq_true]
  exact ⟨fun ⟨e, ⟨he, hl⟩, hlive, hep⟩ => ⟨e, he, hlive, hl, hep⟩, fun ⟨e, he, hlive, hl, hep⟩ => ⟨e, ⟨he, hl⟩, hlive, hep⟩⟩

/-- A new episode leaves the ids of live bookings in the history, and joins it (R59, R81, R82). -/
theorem booksEpisode_linkStands {x y : State} {c : Booking} (hbooks : BooksEpisode x y c) {g : Handle} {l : Link}
    (hl : linkOf x g = some l) : LinkStands y g l := by
  obtain ⟨slot, h, k, a, ids, -, -, hk, hnew, hids, rfl⟩ := hbooks
  by_cases hs : h.slot = g.slot
  · obtain ⟨rfl, rfl⟩ := linkOf_slot_unique hk hl hs
    refine ⟨_, linkOf_slot_map (fun m => { m with history := ids }) hl (by rw [updateLink_slot, if_pos rfl]; rfl), ?_⟩
    intro id hid ⟨⟨i, b⟩, hb, hlive⟩
    rw [occupied_congr (updateLink_bookings _ _ _)] at hb
    rcases historyAfter_some hids with ⟨-, rfl⟩ | ⟨e, kept, he, rfl, -, hroom⟩
    · exact hid
    · rcases occupied_occupyBooking hb with ⟨-, -, rfl⟩ | ⟨-, hbx⟩
      · have := ((isLiveEpisode_iff _ id _).mp hlive).2.2
        rw [show (seriesBooking h k a).episode = a.episode from rfl, he] at this
        exact List.mem_append_right _ (by simpa using this.symm)
      · refine List.mem_append_left _ ?_
        rcases hroom with ⟨rfl, -⟩ | ⟨-, d, hdead, hkeep⟩
        · exact hid
        · refine hkeep id hid fun hd => ?_
          rw [(carriedLive_iff x h d).mpr ⟨(i, b), hbx, hd ▸ hlive⟩] at hdead
          cases hdead
  · exact linkStands_other hl (by rw [updateLink_slot, if_neg hs]; rfl)

theorem changes_linkStands {s0 x y : State} (hx : LinksKept x) (hc : Changes s0 x y) {g : Handle} {l : Link}
    (hl : linkOf x g = some l) (hused : ∃ e ∈ occupied y, e.2.link = some g) : LinkStands y g l := by
  cases hc with
  | poweredOn =>
    obtain ⟨⟨h, c⟩, hm, -⟩ := hused
    exact absurd hm occupied_reset
  | cleared holds _ =>
    obtain ⟨⟨h, c⟩, hm, -⟩ := hused
    refine absurd hm (not_mem_occupied_of_free fun sl hsl => ?_)
    obtain ⟨sl, -, rfl⟩ := List.mem_map.mp hsl
    rfl
  | bookedEpisode slot h k a ids hslot _ hk hnew hids =>
    exact booksEpisode_linkStands ⟨slot, h, k, a, ids, hslot, rfl, hk, hnew, hids, rfl⟩ hl
  | finished h b st reason hb hm => exact finished_linkStands hx hl hb hm
  | unlinked h k w hk =>
    obtain ⟨⟨i, c⟩, hm, hlink⟩ := hused
    refine linkStands_other hl ?_
    unfold removeLink
    rw [freeLink_slot, if_neg]
    intro hs
    obtain ⟨rfl, -⟩ := linkOf_slot_unique hk hl hs
    obtain ⟨b, -, ⟨hne, rfl⟩ | ⟨-, -, rfl⟩⟩ := occupied_removeLink hm
    · exact hne hlink
    · cases hlink
  | linkAdded slot k hslot _ _ =>
    refine linkStands_other hl ?_
    rw [occupyLink_slot, if_neg]
    rintro rfl
    have hnone := ((lowestFreeLink_eq_some x g.slot).mp hslot).2.1
    rw [linkOf_eq_some] at hl
    simp [linkAt, hl] at hnone
  | relinked i f hf =>
    by_cases hs : i = g.slot
    · refine ⟨f l, linkOf_slot_map f hl (by rw [updateLink_slot, if_pos hs]), fun id hid _ => ?_⟩
      rw [(hf l).2.1]
      exact hid
    · exact linkStands_other hl (by rw [updateLink_slot, if_neg hs])
  | none | holdsLost | held | booked | freed | edited | installed | begun | stepped | entered | removed | banded | queued
  | clocked | ticked | timeSet | policySet => exact linkStands_same hl rfl

theorem descends_linked {x : State} {h g : Handle} {c : Booking} (hd : Descends x h c) (hl : c.link = some g) :
    ∃ b, (h, b) ∈ occupied x ∧ b.link = some g ∧ c.episode = b.episode ∧ (c.state.isLive = true → b.state.isLive = true) := by
  rcases hd with hnone | ⟨b, hb, hlink, hep, hlive⟩
  · rw [hnone] at hl; cases hl
  · exact ⟨b, hb, hlink ▸ hl, hep, hlive⟩

/-- A live episode of a booking that descends is one of before. -/
theorem descends_liveEpisode {x : State} {h g : Handle} {c : Booking} {id : Nat} (hd : Descends x h c)
    (hc : isLiveEpisode g id c = true) : ∃ b, (h, b) ∈ occupied x ∧ isLiveEpisode g id b = true := by
  obtain ⟨hlive, hlink, hep⟩ := (isLiveEpisode_iff g id c).mp hc
  obtain ⟨b, hb, hbl, hbe, himp⟩ := descends_linked hd hlink
  exact ⟨b, hb, (isLiveEpisode_iff g id b).mpr ⟨himp hlive, hbl, hbe ▸ hep⟩⟩

theorem changes_resolve {s0 x y : State} (hx : LinksKept x) (hc : Changes s0 x y) : LinksResolve y := by
  rintro ⟨h, c⟩ hm g hg
  have hlink := Option.mem_toList.mp hg
  have hstands {l : Link} (hl : linkOf x g = some l) : (linkOf y g).isSome = true := by
    obtain ⟨k, hk, -⟩ := changes_linkStands hx hc hl ⟨(h, c), hm, hlink⟩
    rw [hk]; rfl
  rcases changes_descends hc hm with hd | ⟨slot, i, l, a, ids, -, rfl, hl, -⟩
  · obtain ⟨b, hb, hbl, -⟩ := descends_linked hd hlink
    obtain ⟨l, hl⟩ := Option.isSome_iff_exists.mp (hx.1 (h, b) hb g (by simp [hbl]))
    exact hstands hl
  · rw [show (seriesBooking i l a).link = some i from rfl, Option.some.injEq] at hlink
    exact hstands (hlink ▸ hl)

/-- A newly booked episode: its id is the newest of the history, and no other live booking of the link carries it. -/
theorem booksEpisode_kept {x y : State} (hx : LinksKept x) {h g : Handle} {c : Booking} {id : Nat}
    (hbooks : BooksEpisode x y c) (hm : (h, c) ∈ occupied y) (hlc : isLiveEpisode g id c = true) :
    (∀ k ∈ (linkOf y g).toList, id ∈ k.history) ∧
      ∀ f ∈ occupied y, isLiveEpisode g id f.2 = true → f.1.slot = h.slot := by
  obtain ⟨slot, i, l, a, ids, hslot, rfl, hl, hnew, hids, rfl⟩ := hbooks
  obtain ⟨-, hlink, hep⟩ := (isLiveEpisode_iff g id _).mp hlc
  obtain rfl : i = g := Option.some.inj hlink
  have hepisode : a.episode = some id := hep
  have hfresh := hnew id hepisode
  /- No booking of before carries the id live: it would be in the history. -/
  have hnone : ∀ j b, (j, b) ∈ occupied x → isLiveEpisode i id b ≠ true := fun j b hb hlb => by
    obtain ⟨-, hbl, hbe⟩ := (isLiveEpisode_iff i id b).mp hlb
    exact hfresh ((hx.2 (j, b) hb i (by simp [hbl]) id (by simp [hbe]) hlb).1 { l with status := .active } (Option.mem_toList.mpr hl))
  refine ⟨fun k hk => ?_, ?_⟩
  · have hlinkOf : linkOf (updateLink (occupyBooking x slot (seriesBooking i l a)) i.slot fun k => { k with history := ids }) i =
        some { l with status := .active, history := ids } :=
      linkOf_slot_map (fun m => { m with history := ids }) hl (by rw [updateLink_slot, if_pos rfl]; rfl)
    rw [hlinkOf] at hk
    rw [← Option.some.inj (Option.mem_toList.mp hk)]
    rcases historyAfter_some hids with ⟨he, -⟩ | ⟨e, kept, he, rfl, -⟩
    · rw [he] at hepisode; cases hepisode
    · rw [hepisode] at he
      injection he with he
      simp [he]
  · rintro ⟨j, b⟩ hb hlb
    rw [occupied_congr (updateLink_bookings _ _ _)] at hb hm
    rcases occupied_occupyBooking hb with ⟨hj, -, -⟩ | ⟨-, hbx⟩
    · rcases occupied_occupyBooking hm with ⟨hh, -, -⟩ | ⟨-, hcx⟩
      · exact hj.trans hh.symm
      · exact absurd hlc (hnone h _ hcx)
    · exact absurd hlb (hnone j b hbx)

theorem changes_episodes {s0 x y : State} (hx : LinksKept x) (hc : Changes s0 x y) : EpisodesKept y := by
  rintro ⟨h, c⟩ hm g hg id hid hlc
  rcases changes_descends hc hm with hd | hbooks
  · obtain ⟨b, hb, hlb⟩ := descends_liveEpisode hd hlc
    obtain ⟨-, hbl, hbe⟩ := (isLiveEpisode_iff g id b).mp hlb
    obtain ⟨hhist, honce⟩ := hx.2 (h, b) hb g (by simp [hbl]) id (by simp [hbe]) hlb
    refine ⟨fun k hk => ?_, ?_⟩
    · obtain ⟨l, hl⟩ := Option.isSome_iff_exists.mp (hx.1 (h, b) hb g (by simp [hbl]))
      obtain ⟨k', hk', hkeep⟩ := changes_linkStands hx hc hl ⟨(h, c), hm, Option.mem_toList.mp hg⟩
      rw [hk'] at hk
      rw [← Option.some.inj (Option.mem_toList.mp hk)]
      exact hkeep id (hhist l (by rw [hl]; simp)) ⟨(h, c), hm, hlc⟩
    · rintro ⟨i, d⟩ hdm hld
      rcases changes_descends hc hdm with hdd | hbooks
      · obtain ⟨e, he, hle⟩ := descends_liveEpisode hdd hld
        exact honce (i, e) he hle
      · exact ((booksEpisode_kept hx hbooks hdm hld).2 (h, c) hm hlc).symm
  · exact booksEpisode_kept hx hbooks hm hlc

/-- Settles O56: a change writes new pairs to one slot, under the check of R7, adds one link of a new series id, and keeps
the ids of live bookings in the histories of their links. -/
theorem keysStayUnique : Obligations.KeysStayUnique := by
  refine ⟨step_keeps_of_tables (fun _ _ _ _ h => h) (fun _ _ _ _ h => h)
    (fun _ _ _ _ h hc => ⟨changes_pairs h.1 hc, changes_series h.2 hc⟩) fun y t hy ht => ?_,
    step_keeps_of_tables (fun _ _ _ _ h => h) (fun _ _ _ _ h => h)
    (fun _ _ _ _ h hc => ⟨changes_resolve h hc, changes_episodes h hc⟩) fun y t hy ht => ?_⟩
  · rw [ht]; exact hy
  · rw [ht]; exact hy

end Sys2Proof.Machine
end

section
/-! PROOF. The law of the tuners (O57) and the confirm timers (O58). -/

namespace Sys2Proof.Machine

/-! ### The running bookings of a tuner -/

theorem mem_runningOn {s : State} {t : Tuner} {e : Handle × Booking} :
    e ∈ runningOn s t ↔ e ∈ occupied s ∧ runsOn t e.2 = true := by simp [runningOn]

theorem mem_countedOn {s : State} {t : Tuner} {but : Option Nat} {e : Handle × Booking} :
    e ∈ countedOn s t but ↔ e ∈ runningOn s t ∧ e.2.closeReached = false ∧ but ≠ some e.1.slot := by
  simp [countedOn]

theorem runsOn_running {t : Tuner} {b : Booking} (h : runsOn t b = true) :
    b.state.isRunning = true ∧ ∃ r, b.running = some r ∧ r.tuner = t := by
  simp only [runsOn, Bool.and_eq_true] at h
  obtain ⟨hst, hr⟩ := h
  split at hr
  · next r hrun => exact ⟨hst, r, hrun, by simpa using hr⟩
  · cases hr

theorem runsOn_of {t : Tuner} {b : Booking} {r : RunningPlacement} (hst : b.state.isRunning = true) (hr : b.running = some r)
    (ht : r.tuner = t) : runsOn t b = true := by
  simp [runsOn, hst, hr, ht]

/-- Bookings in distinct slots are no more than slots that hold them all. -/
theorem countedOn_length_le {s : State} {t : Tuner} {slots : List Nat}
    (h : ∀ e ∈ countedOn s t none, e.1.slot ∈ slots) : (countedOn s t none).length ≤ slots.length := by
  have hsub : ((countedOn s t none).map fun e => e.1.slot).Nodup :=
    (occupied_nodup s).sublist ((List.filter_sublist.trans List.filter_sublist).map _)
  rw [← List.length_map (as := countedOn s t none) (f := fun e => e.1.slot)]
  refine (List.subperm_of_subset hsub fun i hi => ?_).length_le
  obtain ⟨e, he, rfl⟩ := List.mem_map.mp hi
  exact h e he

/-- Where the record runs, it ran before under the same key, with its close point not reached unless it is reached now. -/
def Quiet (b c : Booking) : Prop :=
  ∀ t, runsOn t c = true → runsOn t b = true ∧ runningKey c = runningKey b ∧ (c.closeReached = false → b.closeReached = false)

theorem quiet_of_same {b c : Booking} (hst : c.state = b.state) (hr : c.running = b.running)
    (hclose : c.closeReached = false → b.closeReached = false) : Quiet b c := fun t ht => by
  unfold runsOn at ht ⊢
  rw [hst, hr] at ht
  exact ⟨ht, by unfold runningKey; rw [hr], hclose⟩

theorem quiet_of_not_running {b c : Booking} (hst : c.state.isRunning = false) : Quiet b c := fun t ht => by
  rw [(runsOn_running ht).1] at hst
  cases hst

theorem finished_not_running {st : BookingState} (h : st.isFinished = true) : st.isRunning = false := by
  cases st <;> simp_all [BookingState.isFinished, BookingState.isRunning]

theorem installInto_frame (p : PassRecord) (h : Handle) (b : Booking) :
    installInto p h b =
      { b with
        installed := (installInto p h b).installed, clashMark := (installInto p h b).clashMark, heldBack := false } := by
  unfold installInto
  split
  · split <;> rfl
  · rfl

theorem reachClosePoint_frame (y : State) (b : Booking) :
    reachClosePoint y b = { b with closeReached := (reachClosePoint y b).closeReached } := by
  unfold reachClosePoint
  split <;> rfl

theorem reachClosePoint_not_reached {y : State} {b : Booking} (h : (reachClosePoint y b).closeReached = false) :
    b.closeReached = false := by
  unfold reachClosePoint at h
  split at h
  · exact (Bool.or_eq_false_iff.mp h).1
  · exact h

theorem lightly_quiet {x y : State} {h : Handle} {b c : Booking} (hl : Lightly x y h b c) : Quiet b c := by
  cases hl with
  | same | unlinked => exact quiet_of_same rfl rfl id
  | installed p => rw [installInto_frame]; exact quiet_of_same rfl rfl id
  | reached =>
    refine quiet_of_same ?_ ?_ reachClosePoint_not_reached
    · rw [reachClosePoint_frame]
    · rw [reachClosePoint_frame]
  | finished st reason hm => exact quiet_of_not_running (finished_not_running (mayFinish_cases hm).2.1)

theorem retimed_quiet (x : State) (newPost : Option Nat) (b : Booking) : Quiet b (retimed x newPost b) := by
  unfold retimed
  split
  · exact quiet_of_same rfl rfl id
  · next r hr =>
    split
    · exact quiet_of_same rfl rfl id
    · next hc =>
      intro t ht
      obtain ⟨hst, q, hq, htuner⟩ := runsOn_running ht
      simp only [Option.some.injEq] at hq
      refine ⟨runsOn_of hst hr (by rw [← htuner, ← hq]), ?_, fun _ => Bool.eq_false_iff.mpr hc⟩
      unfold runningKey
      rw [hr]
      rfl

theorem refit_quiet {s0 x : State} {h : Handle} {b c : Booking} (hr : Refit s0 x h b c) : Quiet b c := by
  have hretimed {d : Booking} (newPost : Option Nat) (cond : Bool) (hst : d.state = b.state) (hrun : d.running = b.running)
      (hclose : d.closeReached = b.closeReached) : Quiet b (if cond then retimed x newPost d else d) := by
    have hd : Quiet b d := quiet_of_same hst hrun (by rw [hclose]; exact id)
    split
    · intro t ht
      obtain ⟨h1, h2, h3⟩ := retimed_quiet x newPost d t ht
      obtain ⟨k1, k2, k3⟩ := hd t h1
      exact ⟨k1, h2.trans k2, fun hc => k3 (h3 hc)⟩
    · exact hd
  cases hr with
  | amended f d => exact hretimed _ _ rfl rfl rfl
  | announced a => exact hretimed none _ (by rw [reshown_frame]) (by rw [reshown_frame]) (by rw [reshown_frame])

/-- A booking comes to run, or runs on past its close point, where the tuner has room for it under its key (R134, R145). -/
def Fits (x : State) (h : Handle) (c : Booking) : Prop :=
  ∃ r, c.running = some r ∧ (∀ hold ∈ (firmHold x r.tuner).toList, hold.key = r.key) ∧
    (∀ e ∈ countedOn x r.tuner (some h.slot), runningKey e.2 = some r.key) ∧
    (countedOn x r.tuner (some h.slot)).length + 1 + (if (firmHold x r.tuner).isSome then 1 else 0) ≤ Config.streamPlaces

theorem edit_quiet_or_fits {s0 x y : State} {h : Handle} {b c : Booking} (he : Edit s0 x y h b c) (hx : TunersLawful x)
    (hpolicy : PolicyWf x.policy) (hb : (h, b) ∈ occupied x) : Quiet b c ∨ Fits x h c := by
  have hlimit := hpolicy.2.1.2
  cases he with
  | same | marked | unlinked | resulted | rescheduled | attached => exact .inl (quiet_of_same rfl rfl id)
  | reached => exact .inl (lightly_quiet (x := x) (h := h) .reached)
  | confirmed hst =>
    refine .inl fun t ht => ?_
    obtain ⟨-, r, hr, htuner⟩ := runsOn_running ht
    exact ⟨runsOn_of (by rw [hst]; rfl) hr htuner, rfl, id⟩
  | started p key _ _ hcheck =>
    simp only [openCheck, Bool.and_eq_true, decide_eq_true_eq, List.all_eq_true, beq_iff_eq] at hcheck
    obtain ⟨⟨⟨-, hhold⟩, hothers⟩, hroom⟩ := hcheck
    refine .inr ⟨runningAt x b p key, rfl, fun hold hh => ?_, hothers, ?_⟩
    · rw [show firmHold x p.tuner = some hold from Option.mem_toList.mp hh] at hhold
      exact beq_iff_eq.mp hhold
    · show (countedOn x p.tuner (some h.slot)).length + 1 + (if (firmHold x p.tuner).isSome then 1 else 0) ≤ 3
      omega
  | extended r hst hr hg =>
    obtain ⟨-, -, -, hothers, hroom⟩ := (extensionGranted_iff x h.slot b r).mp hg
    refine .inr ⟨_, rfl, fun hold hh => ?_, hothers, hroom.trans hlimit⟩
    have hkey := (hx r.tuner).2.2 hold hh (h, b) (mem_runningOn.mpr ⟨hb, runsOn_of (by rw [hst]; rfl) hr rfl⟩)
    simp only [runningKey, hr, Option.map_some, Option.some.injEq] at hkey
    exact hkey.symm
  | finished st reason hm => exact .inl (lightly_quiet (x := x) (y := y) (h := h) (.finished st reason hm))
  | announced a u st => exact .inl (by rw [reshown_frame]; exact quiet_of_same rfl rfl id)
  | refitted hr => exact .inl (refit_quiet hr)

/-! ### O57 -/

/-- Where every booking is quiet and no FIRM hold is new, the law of the tuners stays. -/
theorem lawful_of_quiet {x y : State} (hx : TunersLawful x)
    (hquiet : ∀ h c, (h, c) ∈ occupied y → c.state.isRunning = false ∨ ∃ b, (h, b) ∈ occupied x ∧ Quiet b c)
    (t : Tuner) (hhold : firmHold y t = none ∨ firmHold y t = firmHold x t) :
    streamCount y t ≤ Config.streamPlaces ∧
      (∀ e ∈ countedOn y t none, ∀ f ∈ countedOn y t none, runningKey e.2 = runningKey f.2) ∧
      ∀ hold ∈ (firmHold y t).toList, ∀ e ∈ runningOn y t, runningKey e.2 = some hold.key := by
  obtain ⟨hcount, hkeys, hfirm⟩ := hx t
  have hran {e : Handle × Booking} (he : e ∈ runningOn y t) :
      ∃ b, (e.1, b) ∈ runningOn x t ∧ runningKey e.2 = runningKey b ∧ (e.2.closeReached = false → b.closeReached = false) := by
    obtain ⟨hm, hruns⟩ := mem_runningOn.mp he
    rcases hquiet e.1 e.2 hm with hst | ⟨b, hb, hq⟩
    · rw [(runsOn_running hruns).1] at hst; cases hst
    · obtain ⟨hrb, hkey, hclose⟩ := hq t hruns
      exact ⟨b, mem_runningOn.mpr ⟨hb, hrb⟩, hkey, hclose⟩
  have hcounted {e : Handle × Booking} (he : e ∈ countedOn y t none) :
      ∃ b, (e.1, b) ∈ countedOn x t none ∧ runningKey e.2 = runningKey b := by
    obtain ⟨hr, hclose, -⟩ := mem_countedOn.mp he
    obtain ⟨b, hb, hkey, himp⟩ := hran hr
    exact ⟨b, mem_countedOn.mpr ⟨hb, himp hclose, nofun⟩, hkey⟩
  have hlength : (countedOn y t none).length ≤ (countedOn x t none).length := by
    have := countedOn_length_le (s := y) (t := t) (slots := (countedOn x t none).map fun e => e.1.slot) fun e he => by
      obtain ⟨b, hb, -⟩ := hcounted he
      exact List.mem_map.mpr ⟨_, hb, rfl⟩
    simpa using this
  refine ⟨?_, fun e he f hf => ?_, fun hold hh e he => ?_⟩
  · unfold streamCount at hcount ⊢
    rcases hhold with hnone | hsame
    · rw [hnone]
      simp only [Option.isSome_none, Bool.false_eq_true, if_false]
      omega
    · rw [hsame]
      omega
  · obtain ⟨b, hb, hkb⟩ := hcounted he
    obtain ⟨c, hc, hkc⟩ := hcounted hf
    rw [hkb, hkc]
    exact hkeys _ hb _ hc
  · obtain ⟨b, hb, hkey, -⟩ := hran he
    rcases hhold with hnone | hsame
    · rw [hnone] at hh; cases hh
    · rw [hkey]
      exact hfirm hold (hsame ▸ hh) _ hb

/-- One booking written where the tuner has room for it. -/
theorem lawful_of_fits {x : State} (hx : TunersLawful x) {h : Handle} {b c : Booking} (hb : (h, b) ∈ occupied x)
    (hc : Fits x h c) : TunersLawful (updateBooking x h.slot fun _ => c) := by
  obtain ⟨r, hr, hhold, hothers, hroom⟩ := hc
  have hfirm (t : Tuner) : firmHold (updateBooking x h.slot fun _ => c) t = firmHold x t := rfl
  /- Another booking, and the one written off its tuner, ran before as it does. -/
  have hran {t : Tuner} {e : Handle × Booking} (he : e ∈ runningOn (updateBooking x h.slot fun _ => c) t) :
      (e = (h, c) ∧ r.tuner = t) ∨ (e.1.slot ≠ h.slot ∧ e ∈ runningOn x t) := by
    obtain ⟨hm, hruns⟩ := mem_runningOn.mp he
    rcases occupied_update hb (g := e.1) (d := e.2) hm with ⟨h1, h2⟩ | ⟨hne, hmx⟩
    · obtain ⟨-, q, hq, htuner⟩ := runsOn_running hruns
      rw [h2, hr, Option.some.injEq] at hq
      exact .inl ⟨Prod.ext h1 h2, hq ▸ htuner⟩
    · exact .inr ⟨hne, mem_runningOn.mpr ⟨hmx, hruns⟩⟩
  have hcounted {t : Tuner} {e : Handle × Booking} (he : e ∈ countedOn (updateBooking x h.slot fun _ => c) t none) :
      (e = (h, c) ∧ r.tuner = t) ∨ e ∈ countedOn x t (some h.slot) := by
    obtain ⟨hrun, hclose, -⟩ := mem_countedOn.mp he
    rcases hran hrun with hnew | ⟨hne, hold⟩
    · exact .inl hnew
    · exact .inr (mem_countedOn.mpr ⟨hold, hclose, fun heq => hne (Option.some.inj heq).symm⟩)
  intro t
  obtain ⟨hcount, hkeys, hfirmx⟩ := hx t
  by_cases ht : r.tuner = t
  · subst ht
    have hlength := countedOn_length_le (s := updateBooking x h.slot fun _ => c) (t := r.tuner)
      (slots := h.slot :: (countedOn x r.tuner (some h.slot)).map fun e => e.1.slot) fun e he => by
        rcases hcounted he with ⟨rfl, -⟩ | hold
        · exact List.mem_cons_self
        · exact List.mem_cons_of_mem _ (List.mem_map_of_mem hold)
    have hkey {e : Handle × Booking} (he : e ∈ countedOn (updateBooking x h.slot fun _ => c) r.tuner none) :
        runningKey e.2 = some r.key := by
      rcases hcounted he with ⟨rfl, -⟩ | hold
      · simp [runningKey, hr]
      · exact hothers e hold
    refine ⟨?_, fun e he f hf => (hkey he).trans (hkey hf).symm, fun hold hh e he => ?_⟩
    · simp only [List.length_cons, List.length_map] at hlength
      unfold streamCount
      rw [hfirm]
      omega
    · rw [hfirm] at hh
      rcases hran he with ⟨rfl, -⟩ | ⟨-, hold'⟩
      · simp [runningKey, hr, hhold hold hh]
      · exact hfirmx hold hh e hold'
  · have hcounted' {e : Handle × Booking} (he : e ∈ countedOn (updateBooking x h.slot fun _ => c) t none) :
        e ∈ countedOn x t none := by
      rcases hcounted he with ⟨-, htuner⟩ | hold
      · exact absurd htuner ht
      · obtain ⟨h1, h2, -⟩ := mem_countedOn.mp hold
        exact mem_countedOn.mpr ⟨h1, h2, nofun⟩
    have hlength := countedOn_length_le (s := updateBooking x h.slot fun _ => c) (t := t)
      (slots := (countedOn x t none).map fun e => e.1.slot) fun e he => List.mem_map_of_mem (hcounted' he)
    refine ⟨?_, fun e he f hf => hkeys e (hcounted' he) f (hcounted' hf), fun hold hh e he => ?_⟩
    · rw [List.length_map] at hlength
      unfold streamCount at hcount ⊢
      rw [hfirm]
      omega
    · rcases hran he with ⟨-, htuner⟩ | ⟨-, hold'⟩
      · exact absurd htuner ht
      · exact hfirmx hold hh e hold'

/-- A hold put on a tuner that a FIRM one does not conflict with (R39). -/
theorem lawful_of_held {x : State} (hx : TunersLawful x) {t : Tuner} {new : Hold}
    (hnew : new.kind = .firm → holdConflict x t new.key = false) : TunersLawful (putHold x t ⟨some new, .noDrop⟩) := by
  have hself (h c) (hm : (h, c) ∈ occupied (putHold x t ⟨some new, .noDrop⟩)) :
      c.state.isRunning = false ∨ ∃ b, (h, b) ∈ occupied x ∧ Quiet b c := .inr ⟨c, hm, quiet_of_same rfl rfl id⟩
  intro u
  by_cases hu : u = t
  · subst hu
    have hfirm : firmHold (putHold x u ⟨some new, .noDrop⟩) u = (some new).filter fun h => h.kind == .firm := by
      unfold firmHold
      rw [putHold_holds, PerTuner.put_at, if_pos rfl]
    by_cases hkind : new.kind = .firm
    · have hsome : firmHold (putHold x u ⟨some new, .noDrop⟩) u = some new := by rw [hfirm]; simp [hkind]
      have hno := hnew hkind
      simp only [holdConflict, Bool.or_eq_false_iff, List.any_eq_false, bne_iff_ne, ne_eq, Decidable.not_not,
        decide_eq_false_iff_not] at hno
      obtain ⟨hkeys, hroom⟩ := hno
      refine ⟨?_, fun e he f hf => (hkeys e (mem_countedOn.mp he).1).trans (hkeys f (mem_countedOn.mp hf).1).symm,
        fun hold hh e he => ?_⟩
      · have hle : (countedOn (putHold x u ⟨some new, .noDrop⟩) u none).length ≤ (runningOn x u).length :=
          List.length_filter_le _ _
        unfold streamCount
        rw [hsome]
        simp only [Option.isSome_some, if_true]
        omega
      · rw [hsome] at hh
        rw [← Option.some.inj (Option.mem_toList.mp hh)]
        exact hkeys e he
    · exact lawful_of_quiet hx hself u (.inl (by rw [hfirm]; simp [hkind]))
  · refine lawful_of_quiet hx hself u (.inr ?_)
    unfold firmHold
    rw [putHold_holds, PerTuner.put_at, if_neg hu]

/-- A change puts one hold, which R39 allows, or leaves every FIRM hold or loses it. -/
theorem changes_firmHold {s0 x y : State} (hc : Changes s0 x y) :
    (∃ t new, y = putHold x t ⟨some new, .noDrop⟩ ∧ (new.kind = .firm → holdConflict x t new.key = false)) ∨
      ∀ t, firmHold y t = none ∨ firmHold y t = firmHold x t := by
  have hlost {holds : PerTuner HoldRecord} (h : ∀ t, (holds.at t).hold = none ∨ holds.at t = x.holds.at t) (t : Tuner)
      (hy : y.holds = holds) : firmHold y t = none ∨ firmHold y t = firmHold x t := by
    unfold firmHold
    rw [hy]
    rcases h t with hnone | hsame
    · exact .inl (by rw [hnone]; rfl)
    · exact .inr (by rw [hsame])
  cases hc with
  | held t new hnew => exact .inl ⟨t, new, rfl, hnew⟩
  | poweredOn => exact .inr fun t => .inl (by cases t <;> rfl)
  | cleared holds h => exact .inr fun t => hlost h t rfl
  | holdsLost holds h => exact .inr fun t => hlost h t rfl
  | finished h b st reason => exact .inr fun t => .inr (by unfold firmHold; rw [finishBooking_frame])
  | none | booked | bookedEpisode | freed | edited | unlinked | installed | begun | stepped | entered | removed | banded
  | queued | linkAdded | relinked | clocked | ticked | timeSet | policySet => exact .inr fun t => .inr rfl

theorem creates_scheduled {s0 x : State} {c : Booking} (hc : Creates s0 x c) : c.state = .scheduled := by
  cases hc <;> rfl

theorem changes_lawful {s0 x y : State} (hx : TunersLawful x) (hpolicy : PolicyWf x.policy) (hc : Changes s0 x y) :
    TunersLawful y := by
  rcases changes_firmHold hc with ⟨t, new, rfl, hnew⟩ | hhold
  · exact lawful_of_held hx hnew
  · rcases changes_lightly hc with ⟨h, b, c, hb, he, rfl⟩ | hlight
    · rcases edit_quiet_or_fits he hx hpolicy hb with hquiet | hfits
      · refine fun t => lawful_of_quiet hx (fun g d hm => .inr ?_) t (.inr rfl)
        rcases occupied_update hb hm with ⟨rfl, rfl⟩ | ⟨-, hmx⟩
        · exact ⟨b, hb, hquiet⟩
        · exact ⟨d, hmx, quiet_of_same rfl rfl id⟩
      · exact lawful_of_fits hx hb hfits
    · refine fun t => lawful_of_quiet hx (fun h c hm => ?_) t (hhold t)
      rcases hlight h c hm with ⟨-, -, hnew, -⟩ | ⟨b, hb, hl⟩
      · exact .inl (by rw [creates_scheduled hnew]; rfl)
      · exact .inr ⟨b, hb, lightly_quiet hl⟩

/-- Settles O57: a change starts or extends one booking where the tuner has room under its key, puts one hold that R39
allows, and otherwise adds no stream. -/
theorem tunersStayLawful : Obligations.TunersStayLawful :=
  step_keeps_of_tables (I := fun s => TunersLawful s ∧ PolicyWf s.policy) (fun _ _ _ _ h => h) (fun _ _ _ _ h => h)
    (fun _ _ _ _ h hc => ⟨changes_lawful h.1 h.2 hc, changes_policy hc h.2⟩) fun y t hy ht => by rw [ht]; exact hy

/-! ### O58 -/

/-- The confirm timer of a booking, at a clock and policy: in range, and not outlasted while the booking is STARTING. -/
def TimerKept (s : State) (b : Booking) : Prop :=
  ∀ t ∈ b.confirmTimer.toList,
    t.entry < twoTo32 ∧ 10 ≤ t.timeout ∧ t.timeout ≤ 255 ∧ (b.state = .starting → advanceSince s t.entry ≤ t.timeout)

theorem timerKept_of_same {x y : State} {b c : Booking} (hb : TimerKept x b) (htimer : c.confirmTimer = b.confirmTimer)
    (hst : c.state = .starting → b.state = .starting) (hy : y.clock.elapsed = x.clock.elapsed) : TimerKept y c := by
  intro t ht
  obtain ⟨h1, h2, h3, h4⟩ := hb t (htimer ▸ ht)
  refine ⟨h1, h2, h3, fun hs => ?_⟩
  unfold advanceSince
  rw [hy]
  exact h4 (hst hs)

theorem timerKept_of_none {y : State} {c : Booking} (hc : c.confirmTimer = none) : TimerKept y c := by
  intro t ht
  rw [hc] at ht
  cases ht

theorem lightly_timer {x y : State} {h : Handle} {b c : Booking} (hl : Lightly x y h b c) (hb : TimerKept x b)
    (hy : y.clock.elapsed = x.clock.elapsed) : TimerKept y c := by
  cases hl with
  | same | unlinked => exact timerKept_of_same hb rfl id hy
  | installed p => rw [installInto_frame]; exact timerKept_of_same hb rfl id hy
  | reached => rw [reachClosePoint_frame]; exact timerKept_of_same hb rfl id hy
  | finished => exact timerKept_of_none rfl

theorem edit_timer {s0 x y : State} {h : Handle} {b c : Booking} (he : Edit s0 x y h b c) (hx : TimersKept x)
    (hb : TimerKept x b) (hy : y.clock = x.clock) : TimerKept y c := by
  have hsame := congrArg Clock.elapsed hy
  cases he with
  | same | marked | unlinked | resulted | extended | rescheduled | attached => exact timerKept_of_same hb rfl id hsame
  | reached => rw [reachClosePoint_frame]; exact timerKept_of_same hb rfl id hsame
  | confirmed | finished => exact timerKept_of_none rfl
  | started p key =>
    intro t ht
    obtain ⟨helapsed, hlow, hhigh⟩ := hx
    obtain rfl : (⟨x.clock.elapsed, x.policy.confirmTimeout⟩ : ConfirmTimer) = t := Option.some.inj (Option.mem_toList.mp ht)
    refine ⟨helapsed, hlow.1, hlow.2, fun _ => ?_⟩
    unfold advanceSince
    rw [hsame]
    simp
  | announced a u st => rw [reshown_frame]; exact timerKept_of_same hb rfl id hsame
  | refitted hr => rw [(refit_frame hr).1]; exact timerKept_of_same hb rfl id hsame

/-- The elapsed count after a change: reset, raised by a tick that no due Timer event held back, or as before (R130, R161). -/
theorem changes_elapsed {s0 x y : State} (hc : Changes s0 x y) :
    y.clock.elapsed = x.clock.elapsed ∨ (∀ h c, (h, c) ∉ occupied y) ∧ y.clock.elapsed = 0 ∨
      someTimerEventDue x = false ∧ y = reachClosePoints (setClock x (tickClock x.clock)) := by
  cases hc with
  | poweredOn => exact .inr (.inl ⟨fun _ _ => occupied_reset, rfl⟩)
  | clocked c _ _ helapsed => exact .inl helapsed
  | ticked hdue => exact .inr (.inr ⟨hdue, rfl⟩)
  | finished h b st reason => rw [finishBooking_frame]; exact .inl rfl
  | none | cleared | holdsLost | held | booked | bookedEpisode | freed | edited | unlinked | installed | begun | stepped
  | entered | removed | banded | queued | linkAdded | relinked | timeSet | policySet => exact .inl rfl

/-- With no expiry due, one more tick takes no STARTING booking past its timeout (R130, R138). -/
theorem timerKept_tick {x y : State} {b c : Booking} (hb : TimerKept x b) (hdue : expiryDue x b = false)
    (htimer : c.confirmTimer = b.confirmTimer) (hst : c.state = b.state) (helapsed : x.clock.elapsed < twoTo32)
    (hy : y.clock.elapsed = (x.clock.elapsed + 1) % twoTo32) : TimerKept y c := by
  intro t ht
  rw [htimer] at ht
  obtain ⟨h1, h2, h3, h4⟩ := hb t ht
  refine ⟨h1, h2, h3, fun hs => ?_⟩
  rw [hst] at hs
  simp only [expiryDue, hs, Option.mem_toList.mp ht, BEq.rfl, Bool.true_and, decide_eq_false_iff_not] at hdue
  unfold advanceSince at hdue ⊢
  rw [hy]
  simp only [twoTo32] at *
  omega

theorem changes_timers {s0 x y : State} (hx : TimersKept x) (hc : Changes s0 x y) : TimersKept y := by
  obtain ⟨helapsed, hpolicy, hall⟩ := hx
  have hpolicy' : 10 ≤ y.policy.confirmTimeout ∧ y.policy.confirmTimeout ≤ 255 := by
    cases hc with
    | poweredOn => exact resetPolicy_wf.2.2.2.2
    | policySet f p hp => exact (checkPolicy_wf hp).2.2.2.2
    | finished h b st reason => rw [finishBooking_frame]; exact hpolicy
    | none | cleared | holdsLost | held | booked | bookedEpisode | freed | edited | unlinked | installed | begun | stepped
    | entered | removed | banded | queued | linkAdded | relinked | clocked | ticked | timeSet => exact hpolicy
  have hnew {c : Booking} (hcreated : Creates s0 x c) : TimerKept y c := by
    cases hcreated <;> exact timerKept_of_none rfl
  rcases changes_elapsed hc with hsame | ⟨hempty, hzero⟩ | ⟨hdue, hy⟩
  · refine ⟨hsame ▸ helapsed, hpolicy', fun ⟨h, c⟩ hm => ?_⟩
    rcases changes_lightly hc with ⟨g, b, d, hb, he, rfl⟩ | hlight
    · rcases occupied_update hb hm with ⟨rfl, rfl⟩ | ⟨-, hmx⟩
      · exact edit_timer (edit_written he _ _) ⟨helapsed, hpolicy, hall⟩ (hall _ hb) rfl
      · exact timerKept_of_same (hall _ hmx) rfl id rfl
    · rcases hlight h c hm with ⟨-, -, hcreated, -⟩ | ⟨b, hb, hl⟩
      · exact hnew hcreated
      · exact lightly_timer hl (hall _ hb) hsame
  · exact ⟨by rw [hzero]; decide, hpolicy', fun ⟨h, c⟩ hm => absurd hm (hempty h c)⟩
  · have htick : y.clock.elapsed = (x.clock.elapsed + 1) % twoTo32 := by rw [hy]; rfl
    refine ⟨htick ▸ Nat.mod_lt _ (by decide), hpolicy', fun ⟨h, c⟩ hm => ?_⟩
    rw [hy] at hm
    obtain ⟨b, hb, rfl⟩ := occupied_reached (x := x) rfl hm
    have hnone := List.any_eq_false.mp hdue (h, b) hb
    simp only [timerEventDue, Bool.or_eq_true, not_or, Bool.not_eq_true] at hnone
    refine timerKept_tick (hall _ hb) hnone.2 ?_ ?_ helapsed htick
    · rw [reachClosePoint_frame]
    · rw [reachClosePoint_frame]

/-- Settles O58: a tick waits for a due expiry, and nothing else counts a confirm timer on. -/
theorem confirmTimersAreKept : Obligations.ConfirmTimersAreKept :=
  step_keeps_of_tables (fun _ _ _ _ h => h) (fun _ _ _ _ h => h) (fun _ _ _ _ h hc => changes_timers h hc)
    fun y t hy ht => by rw [ht]; exact hy

end Sys2Proof.Machine
end

section
/-! PROOF. Placements stay within their showings, and close points as computed (O59). -/

namespace Sys2Proof.Machine

/-! ### Versions that nothing holds -/

/-- Of 256 values one is missing from a shorter list. -/
theorem exists_version_free (avoid : List Nat) (v : Nat) (h : avoid.length < 256) :
    ∃ m, 1 ≤ m ∧ m < 1 + 256 ∧ (v + m) % 256 ∉ avoid := by
  by_contra hnone
  have hall : ∀ r ∈ List.range 256, r ∈ avoid := fun r hr => by
    by_contra hr'
    have hlt : r < 256 := List.mem_range.mp hr
    refine hnone ⟨(r + 255 - v % 256 + 256) % 256 + 1, by omega, by omega, ?_⟩
    rwa [show (v + ((r + 255 - v % 256 + 256) % 256 + 1)) % 256 = r by omega]
  have := (List.subperm_of_subset List.nodup_range hall).length_le
  rw [List.length_range] at this
  omega

/-- A version that neither the installed placement of the booking nor a pass that evaluated it holds (R6). -/
def Fresh (x : State) (h : Handle) (b : Booking) (v : Nat) : Prop := stampOf b ≠ some v ∧ v ∉ seenVersions x h

/-- A pass holds at most one result for each of 128 places. -/
def ResultsBounded (x : State) : Prop := ∀ p ∈ x.planner.pass.toList, p.results.length ≤ 128

theorem resultsBounded_of_planning {x : State} (hx : PlanningWf x) : ResultsBounded x := by
  intro p hp
  obtain ⟨-, ⟨-, -, hdone, htotal, -, hpass⟩, -⟩ := hx
  have := (hpass p hp).2.2.1
  omega

theorem seenVersions_length {x : State} (hx : ResultsBounded x) (h : Handle) : (seenVersions x h).length ≤ 128 := by
  unfold seenVersions
  split
  · next p hp =>
    rw [List.length_map]
    exact (List.length_filter_le _ _).trans (hx p (Option.mem_toList.mpr hp))
  · exact Nat.zero_le _

theorem raisedVersion_fresh {x : State} (hx : ResultsBounded x) (h : Handle) (b : Booking) :
    Fresh x h b (raisedVersion x h b) := by
  have hlength : ((stampOf b).toList ++ seenVersions x h).length < 256 := by
    have hseen := seenVersions_length hx h
    have hstamp : (stampOf b).toList.length ≤ 1 := by cases stampOf b <;> simp
    rw [List.length_append]
    omega
  obtain ⟨m, hm1, hm2, hfree⟩ := exists_version_free ((stampOf b).toList ++ seenVersions x h) b.version hlength
  obtain ⟨n, -, -, heq, hn, -⟩ := stepOver_spec ((stampOf b).toList ++ seenVersions x h) b.version 256 1
    (fun j hj hlt => absurd hlt (by omega)) ⟨m, hm1, hm2, hfree⟩ (Nat.le_refl _)
  have hnot : raisedVersion x h b ∉ (stampOf b).toList ++ seenVersions x h := by
    unfold raisedVersion
    rw [heq]
    exact hn
  rw [List.mem_append, not_or] at hnot
  exact ⟨fun hs => hnot.1 (by rw [hs]; simp), hnot.2⟩

/-! ### Showings and windows -/

/-- Two records have the same showings and pads, so that placements fit the one as they fit the other. -/
def SameWindow (b c : Booking) : Prop := SameShowings b c ∧ c.prePad = b.prePad ∧ c.postPad = b.postPad

theorem sameWindow_refl (b : Booking) : SameWindow b b := ⟨⟨rfl, rfl⟩, rfl, rfl⟩

theorem sameShowings_named {b c : Booking} (h : SameShowings b c) (u : ShowingUsed) : showingNamed c u = showingNamed b u := by
  cases u with
  | primary => exact congrArg some h.1
  | alternative => exact h.2

theorem windowFits_of_same {b c : Booking} {p : Placement} (h : SameWindow b c) (hb : WindowFits b p) : WindowFits c p := by
  obtain ⟨hshow, hpre, hpost⟩ := h
  unfold WindowFits at hb ⊢
  rwa [sameShowings_named hshow, hpre, hpost]

theorem sameShowings_withShowing {b : Booking} {u : ShowingUsed} {g : Showing → Showing}
    (h : showingNamed (withShowing b u g) u = showingNamed b u) : SameShowings b (withShowing b u g) := by
  cases u with
  | primary => exact ⟨Option.some.inj h, rfl⟩
  | alternative => exact ⟨rfl, h⟩

/-- What an edit does to a booking that stays SCHEDULED: its window and version stay, with its placement or a result of the
pass installed, or its version is one that nothing holds. -/
def KeepsPlacement (x : State) (h : Handle) (b c : Booking) : Prop :=
  SameWindow b c ∧ c.version = b.version ∧
      (c.installed = b.installed ∨ ∃ p e, x.planner.pass = some p ∧ resultFor p h = some e ∧ c.installed = some e) ∨
    Fresh x h b c.version ∧ c.installed = b.installed

theorem keepsPlacement_of_same {x : State} {h : Handle} {b c : Booking} (hw : SameWindow b c) (hv : c.version = b.version)
    (hi : c.installed = b.installed) : KeepsPlacement x h b c := .inl ⟨hw, hv, .inl hi⟩

theorem reshown_keepsPlacement {x : State} (hx : ResultsBounded x) (h : Handle) (b : Booking) (u : ShowingUsed)
    (g : Showing → Showing) (st : RunningStatus) : KeepsPlacement x h b (reshown x h b u g st) := by
  by_cases hchanged : showingNamed (withShowing b u g) u = showingNamed b u
  · refine keepsPlacement_of_same ⟨sameShowings_withShowing hchanged, ?_, ?_⟩ ?_ ?_
    · rw [reshown_frame]
    · rw [reshown_frame]
    · simp [reshown, hchanged]
    · rw [reshown_frame]
  · refine .inr ⟨?_, by rw [reshown_frame]⟩
    rw [show (reshown x h b u g st).version = raisedVersion x h b by simp [reshown, hchanged]]
    exact raisedVersion_fresh hx h b

theorem amended_keepsPlacement {x : State} (hx : ResultsBounded x) (h : Handle) (b : Booking) (f : AmendBookingFields) :
    KeepsPlacement x h b (amended x h b f) := by
  by_cases hchanged : relevantChange b f = true
  · refine .inr ⟨?_, rfl⟩
    rw [show (amended x h b f).version = raisedVersion x h b by simp [amended, hchanged]]
    exact raisedVersion_fresh hx h b
  · have hsame := hchanged
    simp only [relevantChange, Bool.or_eq_true, bne_iff_ne, not_or, Decidable.not_not] at hsame
    obtain ⟨⟨⟨⟨hprimary, halternative⟩, hpre⟩, hpost⟩, -⟩ := hsame
    refine keepsPlacement_of_same ⟨⟨hprimary.symm, halternative.symm⟩, hpre.symm, hpost.symm⟩ ?_ rfl
    simp [amended, hchanged]

/-- An edit that leaves a booking SCHEDULED found it SCHEDULED, and keeps its placement. -/
theorem edit_keepsPlacement {s0 x y : State} (hx : ResultsBounded x) {h : Handle} {b c : Booking}
    (he : Edit s0 x y h b c) (hst : c.state = .scheduled) : b.state = .scheduled ∧ KeepsPlacement x h b c := by
  cases he with
  | same | marked | unlinked => exact ⟨hst, keepsPlacement_of_same (sameWindow_refl b) rfl rfl⟩
  | resulted p e hp he hsched => exact ⟨hst, .inl ⟨sameWindow_refl b, rfl, .inr ⟨p, e, hp, he, rfl⟩⟩⟩
  | reached =>
    rw [reachClosePoint_frame] at hst ⊢
    exact ⟨hst, keepsPlacement_of_same (sameWindow_refl b) rfl rfl⟩
  | confirmed | started => cases hst
  | extended r hrec => exact absurd (hrec.symm.trans hst) (by decide)
  | finished st reason hm =>
    have hfin := (mayFinish_cases hm).2.1
    rw [show st = .scheduled from hst] at hfin
    cases hfin
  | rescheduled f d st hsched => exact ⟨hsched, amended_keepsPlacement hx h b _⟩
  | announced a u st hsched => exact ⟨hsched, reshown_keepsPlacement hx h b u _ st⟩
  | attached a hsched => exact ⟨hsched, .inr ⟨raisedVersion_fresh hx h b, rfl⟩⟩
  | refitted hr =>
    obtain ⟨hframe, -, hrun, -⟩ := refit_frame hr
    rw [hframe] at hst
    rw [show b.state = .scheduled from hst] at hrun
    cases hrun

/-! ### Evaluations fit -/

theorem trimmedOpen_bounds (bd : Board) (t : Tuner) (key : MuxKey) {p c : Nat} (h : p ≤ c) :
    p ≤ bd.trimmedOpen t key p c ∧ bd.trimmedOpen t key p c ≤ c := by
  unfold Board.trimmedOpen
  generalize hlist : List.filter _ _ = xs
  obtain ⟨hmem, hle, -⟩ := least_spec c xs
  refine ⟨?_, hle⟩
  rcases hmem with heq | hmem
  · rw [heq]; exact h
  · rw [← hlist, List.mem_filter] at hmem
    simp only [Bool.and_eq_true, decide_eq_true_eq] at hmem
    rw [hlist] at hmem
    exact hmem.2.1.1

theorem trimmedClose_bounds (bd : Board) (t : Tuner) (key : MuxKey) {e q : Nat} (h : e ≤ q) :
    e ≤ bd.trimmedClose t key e q ∧ bd.trimmedClose t key e q ≤ q := by
  unfold Board.trimmedClose
  generalize hlist : List.filter _ _ = xs
  obtain ⟨hmem, hle, -⟩ := greatest_spec e xs
  refine ⟨hle, ?_⟩
  rcases hmem with heq | hmem
  · rw [heq]; exact h
  · rw [← hlist, List.mem_filter] at hmem
    simp only [Bool.and_eq_true, decide_eq_true_eq] at hmem
    rw [hlist] at hmem
    exact hmem.2.1.2

theorem coreEnd_le_paddedEnd (v : Showing) (postPad : Nat) : coreEnd v ≤ paddedEnd v postPad := by
  unfold paddedEnd coreEnd satAdd
  omega

/-- A showing placed by a step keeps to its window (R111, R112). -/
theorem tryShowing_fits {bd : Board} {v : Showing} {prePad postPad : Nat} {route : Option Route} {full : Bool} {t : Tuner}
    {a c : Nat} {key : MuxKey} (h : bd.tryShowing v prePad postPad route = .placed full t a c key) :
    paddedStart v prePad ≤ a ∧ coreEnd v ≤ c ∧ c ≤ paddedEnd v postPad ∧ a < c := by
  unfold Board.tryShowing at h
  split at h
  · cases h
  · next r =>
    split at h
    · cases h
    · dsimp only at h
      split at h
      · cases h
      · next hwide =>
        have hend := coreEnd_le_paddedEnd v postPad
        simp only [triedShowing, not_le] at hwide
        unfold Board.place at h
        dsimp only at h
        split at h
        · simp only [Trial.placed.injEq] at h
          obtain ⟨-, -, rfl, rfl, -⟩ := h
          exact ⟨Nat.le_max_left _ _, hend, Nat.le_refl _, hwide⟩
        · unfold Board.placeTrimmed at h
          split at h
          · cases h
          · next hcore =>
            split at h
            · next w hw =>
              simp only [Trial.placed.injEq] at h
              obtain ⟨-, rfl, rfl, rfl, -⟩ := h
              obtain ⟨before, after, hws, -, -⟩ := longest_spec _ _ hw
              have hmem := hws ▸ (List.mem_append_right before List.mem_cons_self)
              obtain ⟨u, -, hu⟩ := List.mem_map.mp hmem
              simp only [Prod.mk.injEq] at hu
              obtain ⟨-, rfl, rfl⟩ := hu
              have hopen := trimmedOpen_bounds bd u r.key
                (p := max (paddedStart v prePad) bd.passTime) (c := max v.start bd.passTime) (by unfold paddedStart; omega)
              have hclose := trimmedClose_bounds bd u r.key hend
              simp only [triedShowing, not_le] at hcore ⊢
              omega
            · cases h

theorem alternativeVerdict_placed {primary : Trial} {alternative : Option Trial} {p : Placement}
    (h : (alternativeVerdict primary alternative).1 = .placed p) :
    ∃ full key, alternative = some (.placed full p.tuner p.openAt p.closeAt key) ∧ p.kind = .onAlternative := by
  unfold alternativeVerdict at h
  have hnot : unplacedVerdict primary alternative ≠ .placed p := by
    unfold unplacedVerdict
    split
    · nofun
    · split <;> nofun
  split at h
  · injection h with h
    subst h
    exact ⟨_, _, rfl, rfl⟩
  all_goals exact absurd h hnot

/-- A placement that a step evaluates fits the booking's showing (R111 to R114). -/
theorem evaluate_fits {bd : Board} {b : Booking} {route : Nat → Option Route} {p : Placement}
    (h : (bd.evaluate b route).1 = .placed p) : WindowFits b p := by
  have halternative (primary : Trial)
      (h : (alternativeVerdict primary
        (b.alternative.map fun v => bd.tryShowing v b.prePad b.postPad (route v.channel))).1 = .placed p) :
      WindowFits b p := by
    obtain ⟨full, key, htrial, hkind⟩ := alternativeVerdict_placed h
    obtain ⟨v, hv, hplaced⟩ := Option.map_eq_some_iff.mp htrial
    exact ⟨v, by rw [hkind]; exact Option.mem_toList.mpr hv, tryShowing_fits hplaced⟩
  unfold Board.evaluate at h
  split at h
  · next full t a c key htrial =>
    injection h with h
    subst h
    refine ⟨b.primary, ?_, tryShowing_fits htrial⟩
    cases full <;> exact Option.mem_toList.mpr rfl
  · exact halternative _ h
  · exact halternative _ h
  · exact halternative _ h

/-! ### Placements after a change -/

theorem currentPlacement_iff {b : Booking} {p : Placement} :
    currentPlacement b = some p ↔
      b.state = .scheduled ∧ ∃ e, b.installed = some e ∧ e.verdict = .placed p ∧ e.stamp = b.version := by
  unfold currentPlacement
  constructor
  · intro h
    split at h
    · next e hst hi =>
      split at h
      · next q hq =>
        split at h
        · next hv =>
          injection h with h
          subst h
          exact ⟨hst, e, hi, hq, hv⟩
        · cases h
      all_goals cases h
    · cases h
  · rintro ⟨hst, e, hi, hq, hv⟩
    simp only [hst, hi, hq, hv, if_true]

theorem resultFor_mem {p : PassRecord} {h : Handle} {e : Evaluation} (he : resultFor p h = some e) :
    ∃ q ∈ p.results, q.handle = h ∧ q.evaluation = e := by
  obtain ⟨q, hq, rfl⟩ := Option.map_eq_some_iff.mp he
  exact ⟨q, List.mem_of_find?_eq_some hq, by simpa using List.find?_some hq, rfl⟩

theorem resultsFit_at {x : State} (hx : ResultsFit x) {p : PassRecord} (hp : x.planner.pass = some p) {q : StepResult}
    (hq : q ∈ p.results) {b : Booking} (hb : (q.handle, b) ∈ occupied x) (hst : b.state = .scheduled)
    (hv : q.evaluation.stamp = b.version) {w : Placement} (hw : q.evaluation.verdict = .placed w) : WindowFits b w :=
  hx p (Option.mem_toList.mpr hp) q hq b (Option.mem_toList.mpr ((bookingOf_iff_occupied x q.handle b).mpr hb)) hst hv w
    (by rw [hw]; exact Option.mem_toList.mpr rfl)

theorem changes_currentFits {s0 x y : State} (hx : PlacementsFit x) (hc : Changes s0 x y) : CurrentFits y := by
  obtain ⟨hplanning, hcurrent, hresults⟩ := hx
  rintro ⟨h, c⟩ hm p hp
  obtain ⟨hst, e, hi, hplaced, hv⟩ := currentPlacement_iff.mp (Option.mem_toList.mp hp)
  dsimp only at hst hi hv
  rcases changes_arises hc hm with ⟨b, hb, he⟩ | ⟨-, -, hnew, -⟩
  · obtain ⟨hstb, ⟨hw, hvb, hib | ⟨pass, e', hpass, hres, hie⟩⟩ | ⟨hfresh, hib⟩⟩ :=
      edit_keepsPlacement (resultsBounded_of_planning hplanning) he hst
    · refine windowFits_of_same hw (hcurrent (h, b) hb p (Option.mem_toList.mpr (currentPlacement_iff.mpr ?_)))
      exact ⟨hstb, e, hib ▸ hi, hplaced, hv.trans hvb⟩
    · obtain rfl : e = e' := Option.some.inj (hi.symm.trans hie)
      obtain ⟨q, hq, rfl, rfl⟩ := resultFor_mem hres
      exact windowFits_of_same hw (resultsFit_at hresults hpass hq hb hstb (hv.trans hvb) hplaced)
    · refine absurd ?_ hfresh.1
      rw [stampOf, ← hib, hi, Option.map_some, hv]
  · have hnone : c.installed = none := by cases hnew <;> rfl
    rw [hnone] at hi
    cases hi

/-- The tag of a new booking is one that the pass in progress did not record (R2). -/
theorem nextBookingTag_unrecorded {x : State} (hx : PlanningWf x) {p : PassRecord} (hp : x.planner.pass = some p)
    {h : Handle} (htag : h.tag = nextBookingTag x h.slot) : h ∉ p.order.map fun e => e.handle := by
  have hnodup := (hx.2.1.2.2.2.2.2 p (Option.mem_toList.mpr hp)).2.1
  have hrecorded (k : Handle) : recordedByPass x k = true ↔ k ∈ p.order.map fun e => e.handle := by
    simp [recordedByPass, hp]
  unfold nextBookingTag at htag
  dsimp only at htag
  split at htag
  · next hfirst =>
    rw [hrecorded] at hfirst
    intro hmem
    /- No slot stands twice in the order, and two tags in a row differ. -/
    obtain ⟨e, he, heh⟩ := List.mem_map.mp hfirst
    obtain ⟨f, hf, hfh⟩ := List.mem_map.mp hmem
    have hsame : e = f := List.inj_on_of_nodup_map hnodup he hf (by rw [heh, hfh])
    have htags : tagAfter (tagAfter (tagAt x h.slot)) = tagAfter (tagAt x h.slot) := by
      rw [← htag, ← hfh, ← hsame, heh]
    generalize tagAfter (tagAt x h.slot) = t at htags
    unfold tagAfter at htags
    split at htags <;> omega
  · next hfirst =>
    intro hmem
    refine hfirst ((hrecorded _).mpr ?_)
    rwa [← htag]

theorem changes_resultsFit {s0 x y : State} (hx : PlacementsFit x) (hc : Changes s0 x y) : ResultsFit y := by
  obtain ⟨hplanning, hcurrent, hresults⟩ := hx
  intro pass hpass q hq c hcb hst hv p hp
  rw [Option.mem_toList] at hpass hcb hp
  have hplaced : q.evaluation.verdict = .placed p := by
    unfold Verdict.placement at hp
    split at hp
    · next w hw => rw [hw, Option.some.inj hp]
    all_goals cases hp
  have hm := (bookingOf_iff_occupied y q.handle c).mp hcb
  rcases changes_pass hc hpass with hsame | ⟨-, hnone, -⟩ | ⟨p0, e, hp0, he, rfl, hbookings⟩
  · rcases changes_arises hc hm with ⟨b, hb, he⟩ | ⟨-, htag, -, -⟩
    · obtain ⟨hstb, ⟨hw, hvb, -⟩ | ⟨hfresh, -⟩⟩ := edit_keepsPlacement (resultsBounded_of_planning hplanning) he hst
      · exact windowFits_of_same hw (resultsFit_at hresults hsame hq hb hstb (hv.trans hvb) hplaced)
      · refine absurd ?_ hfresh.2
        simp only [seenVersions, hsame]
        exact List.mem_map.mpr ⟨q, List.mem_filter.mpr ⟨hq, by simp⟩, hv⟩
    · have hknown := (hplanning.2.1.2.2.2.2.2 pass (Option.mem_toList.mpr hsame)).2.2.2.1 q hq
      exact absurd hknown (nextBookingTag_unrecorded hplanning hsame htag)
  · rw [hnone] at hq
    cases hq
  · rw [occupied_congr hbookings] at hm
    rcases stepRecord_results hq with hold | ⟨b, hb, -, rfl⟩
    · exact resultsFit_at hresults hp0 hold hm hst hv hplaced
    · have hmb := (bookingOf_iff_occupied x e.handle b).mp hb
      obtain ⟨-, rfl⟩ := occupied_slot_unique hmb hm rfl
      exact evaluate_fits hplaced

/-! ### Close points -/

/-- The close point of a record at a clock: of a running booking whose close point is not reached it is the one R133
computes, and ahead. -/
def CloseKept (s : State) (b : Booking) : Prop :=
  b.state.isRunning = true → ∀ r ∈ b.running.toList,
    (showingNamed b r.used).isSome = true ∧ r.postAllowance ≤ 7200 ∧
      (b.closeReached = false → r.closePoint = closePointOf b r ∧ reached s r.closePoint = false)

theorem closePointOf_eq {b : Booking} {r : RunningPlacement} {v : Showing} (hv : showingNamed b r.used = some v) :
    closePointOf b r = satAdd (coreEnd v + r.postAllowance) b.extensionUsed := by
  unfold closePointOf
  rw [hv]

/-- The computed close point reads the showing in use, the post allowance and the extension used. -/
theorem closePointOf_congr {b c : Booking} {q r : RunningPlacement} (hshow : showingNamed c q.used = showingNamed b r.used)
    (hpost : q.postAllowance = r.postAllowance) (hext : c.extensionUsed = b.extensionUsed)
    (hsome : (showingNamed b r.used).isSome = true) : closePointOf c q = closePointOf b r := by
  obtain ⟨v, hv⟩ := Option.isSome_iff_exists.mp hsome
  rw [closePointOf_eq hv, closePointOf_eq (hshow.trans hv), hpost, hext]

theorem closePointOf_stored {b c : Booking} {r : RunningPlacement} (n : Nat) (hshow : SameShowings b c)
    (hext : c.extensionUsed = b.extensionUsed) (hsome : (showingNamed b r.used).isSome = true) :
    closePointOf b r = closePointOf c { r with closePoint := n } :=
  (closePointOf_congr (q := { r with closePoint := n }) (sameShowings_named hshow r.used) rfl hext hsome).symm

theorem closeKept_of_same {s t : State} {b c : Booking} (hb : CloseKept s b) (hst : c.state.isRunning = b.state.isRunning)
    (hrun : c.running = b.running)
    (hshow : ∀ r, b.running = some r → (showingNamed b r.used).isSome = true → showingNamed c r.used = showingNamed b r.used)
    (hext : c.extensionUsed = b.extensionUsed)
    (hclose : c.closeReached = false → b.closeReached = false)
    (hclock : ∀ n, c.closeReached = false → (∃ r, b.running = some r ∧ r.closePoint = n) → b.state.isRunning = true →
      reached s n = false → reached t n = false) : CloseKept t c := by
  intro hst' r hr
  rw [hrun] at hr
  have hrb := Option.mem_toList.mp hr
  rw [hst] at hst'
  obtain ⟨hsome, hpost, hpoint⟩ := hb hst' r hr
  refine ⟨by rw [hshow r hrb hsome]; exact hsome, hpost, fun hc => ?_⟩
  obtain ⟨heq, hahead⟩ := hpoint (hclose hc)
  exact ⟨heq.trans (closePointOf_congr (hshow r hrb hsome) rfl hext hsome).symm, hclock _ hc ⟨r, hrb, rfl⟩ hst' hahead⟩

theorem closeKept_not_running {s : State} {c : Booking} (hst : c.state.isRunning = false) : CloseKept s c := fun h => by
  rw [hst] at h; cases h

/-- A record with its end computed again (R147). -/
theorem retimed_closeKept {s x : State} {newPost : Option Nat} {d : Booking} (hpost : ∀ n ∈ newPost.toList, n ≤ 7200)
    (hsome : d.state.isRunning = true → ∀ r ∈ d.running.toList, (showingNamed d r.used).isSome = true ∧ r.postAllowance ≤ 7200)
    (hs : ∀ n, reached s n = reached x n) : CloseKept s (retimed x newPost d) := by
  intro hst r hr
  have hstd : d.state.isRunning = true := by rwa [(retimed_frame x newPost d).1] at hst
  by_cases hidle : d.running = none ∨ d.closeReached = true
  · rw [retimed_idle newPost hidle] at hr ⊢
    obtain ⟨h1, h2⟩ := hsome hstd r hr
    refine ⟨h1, h2, fun hc => ?_⟩
    rcases hidle with hnone | hdue
    · rw [hnone] at hr; cases hr
    · rw [hc] at hdue; cases hdue
  · obtain ⟨hne, hc⟩ := not_or.mp hidle
    obtain ⟨q, hq⟩ := Option.ne_none_iff_exists'.mp hne
    obtain ⟨h1, h2⟩ := hsome hstd q (Option.mem_toList.mpr hq)
    rw [retimed_running newPost hq (Bool.eq_false_iff.mpr hc) rfl] at hr ⊢
    obtain rfl := Option.some.inj (Option.mem_toList.mp hr)
    refine ⟨h1, ?_, fun hahead => ⟨?_, by rw [hs]; exact hahead⟩⟩
    · cases newPost with
      | none => exact h2
      | some n => exact hpost n (Option.mem_toList.mpr rfl)
    · exact closePointOf_stored (b := d) (r := { q with postAllowance := newPost.getD q.postAllowance }) _ ⟨rfl, rfl⟩ rfl h1

theorem usedOf_running {b : Booking} {r : RunningPlacement} (hr : b.running = some r) : usedOf b = r.used := by
  unfold usedOf
  rw [hr]

/-- An amend that R15 allows leaves the showing in use present. -/
theorem runningAmend_showing {b : Booking} {f : AmendBookingFields} (h : runningAmendAllowed b f = true)
    (hsome : (showingNamed b (usedOf b)).isSome = true) : (amendShowing f (usedOf b)).isSome = true := by
  simp only [runningAmendAllowed, Bool.and_eq_true] at h
  obtain ⟨-, h⟩ := h
  cases hu : usedOf b with
  | primary => rfl
  | alternative =>
    simp only [hu, Bool.and_eq_true] at h hsome
    obtain ⟨-, h⟩ := h
    obtain ⟨v, hv⟩ := Option.isSome_iff_exists.mp hsome
    rw [show b.alternative = some v from hv] at h
    show f.alternative.isSome = true
    cases hf : f.alternative with
    | none => rw [hf] at h; cases h
    | some w => rfl

theorem withShowing_named_isSome (b : Booking) (u : ShowingUsed) (g : Showing → Showing) :
    (showingNamed (withShowing b u g) u).isSome = (showingNamed b u).isSome := by
  cases u with
  | primary => rfl
  | alternative => simp [withShowing, showingNamed]

/-- A refitted booking: its end computed again, or its showing in use and post-pad as they were. -/
theorem refit_closeKept {s0 x y : State} {h : Handle} {b c : Booking} (hr : Refit s0 x h b c) (hb : CloseKept x b)
    (hy : y.clock = x.clock) : CloseKept y c := by
  have hreached (n : Nat) : reached y n = reached x n := by unfold reached; rw [hy]
  cases hr with
  | amended f d hrun _ _ hallowed =>
    split
    · refine retimed_closeKept (fun n hn => ?_) (fun _ r hr => ?_) hreached
      · split at hn
        · rw [← Option.some.inj (Option.mem_toList.mp hn)]
          exact Nat.min_le_left _ _
        · cases hn
      · have hrb : b.running = some r := Option.mem_toList.mp hr
        obtain ⟨hsome, hpost, -⟩ := hb hrun r hr
        refine ⟨?_, hpost⟩
        rw [← usedOf_running hrb] at hsome ⊢
        have := runningAmend_showing hallowed hsome
        cases hu : usedOf b with
        | primary => rfl
        | alternative => rw [hu] at this; exact this
    · next hsame =>
      simp only [Bool.or_eq_true, bne_iff_ne, not_or, Decidable.not_not] at hsame
      refine closeKept_of_same hb rfl rfl (fun r hr _ => ?_) rfl id fun n _ _ _ hn => by rw [hreached]; exact hn
      rw [← usedOf_running hr, hsame.1]
      cases usedOf b <;> rfl
  | announced a hrun _ _ =>
    have hframe := reshown_frame x h b (usedOf b) (announcedDuration a) a.status
    have hnamed : showingNamed (reshown x h b (usedOf b) (announcedDuration a) a.status) (usedOf b) =
        showingNamed (withShowing b (usedOf b) (announcedDuration a)) (usedOf b) := by cases usedOf b <;> rfl
    have hrunning : (reshown x h b (usedOf b) (announcedDuration a) a.status).running = b.running := by rw [hframe]
    split
    · refine retimed_closeKept nofun (fun _ r hr => ?_) hreached
      rw [hrunning] at hr
      obtain ⟨hsome, hpost, -⟩ := hb hrun r hr
      refine ⟨?_, hpost⟩
      rw [← usedOf_running (Option.mem_toList.mp hr)] at hsome ⊢
      rw [hnamed, withShowing_named_isSome]
      exact hsome
    · next hsame =>
      simp only [bne_iff_ne, Decidable.not_not] at hsame
      refine closeKept_of_same hb (by rw [hframe]) hrunning (fun r hr _ => ?_) (by rw [hframe]) (by rw [hframe]; exact id)
        fun n _ _ _ hn => by rw [hreached]; exact hn
      rw [← usedOf_running hr, hnamed, hsame]

theorem satAdd_zero_bound {a b : Nat} (h : a ≤ Config.topOfTime) : a ≤ satAdd a b := by
  unfold satAdd
  omega

/-- A booking that starts under the open check: its close point is ahead (R133 to R135). -/
theorem started_closeKept {x y : State} {h : Handle} {b : Booking} {p : Placement} {key : MuxKey}
    (hfit : WindowFits b p) (hfields : FieldsWf b)
    (hcheck : openCheck x h.slot p key = true) (hy : y.clock = x.clock) : CloseKept y (started x p key b) := by
  intro _ r hr
  obtain rfl : runningAt x b p key = r := Option.some.inj (Option.mem_toList.mp hr)
  obtain ⟨v, hv, -, hcore, hpadded, -⟩ := hfit
  rw [Option.mem_toList] at hv
  obtain ⟨-, -, -, hpostPad, -⟩ := hfields
  have hpost : postAllowanceAt b p = p.closeAt - coreEnd v := by unfold postAllowanceAt; rw [hv]
  have hsome : (showingNamed b (runningAt x b p key).used).isSome = true := by
    rw [show (runningAt x b p key).used = p.kind.used from rfl, hv]; rfl
  have htop : p.closeAt ≤ Config.topOfTime ∧ p.closeAt ≤ coreEnd v + b.postPad := by
    unfold paddedEnd satAdd at hpadded
    omega
  have hpoint : (runningAt x b p key).closePoint = satAdd p.closeAt b.extensionUsed := by
    show closePointOf b _ = _
    rw [closePointOf_eq hv]
    show satAdd (coreEnd v + postAllowanceAt b p) b.extensionUsed = _
    rw [hpost, show coreEnd v + (p.closeAt - coreEnd v) = p.closeAt by omega]
  refine ⟨hsome, ?_, fun _ => ⟨?_, ?_⟩⟩
  · show postAllowanceAt b p ≤ 7200
    rw [hpost]
    omega
  · rw [hpoint, closePointOf_eq hv]
    show _ = satAdd (coreEnd v + postAllowanceAt b p) b.extensionUsed
    rw [hpost, show coreEnd v + (p.closeAt - coreEnd v) = p.closeAt by omega]
  · simp only [openCheck, Bool.and_eq_true, decide_eq_true_eq] at hcheck
    have hnow : x.clock.seconds < p.closeAt := hcheck.1.1.1
    have hbound := satAdd_zero_bound (b := b.extensionUsed) htop.1
    rw [hpoint]
    unfold reached
    rw [hy, Bool.and_eq_false_iff, decide_eq_false_iff_not]
    exact .inr (by omega)

/-- A granted extension computes the close point again (R145). -/
theorem extended_closeKept {x y : State} {b : Booking} {r : RunningPlacement} (hst : b.state = .recording)
    (hr : b.running = some r) (hb : CloseKept x b) (hy : y.clock = x.clock) : CloseKept y (extended x r b) := by
  intro _ q hq
  obtain rfl := Option.some.inj (Option.mem_toList.mp hq)
  obtain ⟨hsome, hpost, -⟩ := hb (by rw [hst]; rfl) r (Option.mem_toList.mpr hr)
  refine ⟨hsome, hpost, fun hahead => ⟨?_, ?_⟩⟩
  · exact closePointOf_stored (b := { b with extensionUsed := b.extensionUsed + Config.extensionSeconds }) _ ⟨rfl, rfl⟩ rfl hsome
  · unfold reached at hahead ⊢
    rw [hy]
    exact hahead

theorem lightly_closeKept {x y : State} {h : Handle} {b c : Booking} (hl : Lightly x y h b c) (hb : CloseKept x b)
    (hclock : (∀ n, reached y n = reached x n) ∨ c = reachClosePoint y b) : CloseKept y c := by
  have hreached : CloseKept y (reachClosePoint y b) := by
    refine closeKept_of_same hb ?_ ?_ (fun r _ _ => ?_) ?_ reachClosePoint_not_reached fun n hc hpoint hst _ => ?_
    · rw [reachClosePoint_frame]
    · rw [reachClosePoint_frame]
    · rw [reachClosePoint_frame]; cases r.used <;> rfl
    · rw [reachClosePoint_frame]
    · obtain ⟨r, hr, rfl⟩ := hpoint
      simp only [reachClosePoint, hr, hst, Bool.true_and, Bool.or_eq_false_iff] at hc
      exact hc.2
  rcases hclock with hsame | rfl
  · cases hl with
    | same => exact closeKept_of_same hb rfl rfl (fun _ _ _ => rfl) rfl id fun n _ _ _ hn => by rw [hsame]; exact hn
    | unlinked =>
      exact closeKept_of_same hb rfl rfl (fun r _ _ => by cases r.used <;> rfl) rfl id fun n _ _ _ hn => by
        rw [hsame]; exact hn
    | installed p =>
      rw [installInto_frame]
      exact closeKept_of_same hb rfl rfl (fun r _ _ => by cases r.used <;> rfl) rfl id fun n _ _ _ hn => by
        rw [hsame]; exact hn
    | reached => exact hreached
    | finished st reason hm => exact closeKept_not_running (finished_not_running (mayFinish_cases hm).2.1)
  · exact hreached

theorem edit_closeKept {s0 x y : State} {h : Handle} {b c : Booking} (he : Edit s0 x y h b c) (hcurrent : CurrentFits x)
    (hmem : (h, b) ∈ occupied x) (hfields : FieldsWf b) (hb : CloseKept x b) (hy : y.clock = x.clock) : CloseKept y c := by
  have hreached (n : Nat) : reached y n = reached x n := by unfold reached; rw [hy]
  have hscheduled {d : Booking} (hst : d.state = .scheduled) : CloseKept y d := closeKept_not_running (by rw [hst]; rfl)
  have hsame {d : Booking} (hst : d.state.isRunning = b.state.isRunning) (hrun : d.running = b.running)
      (hshow : SameShowings b d) (hext : d.extensionUsed = b.extensionUsed) (hclose : d.closeReached = b.closeReached) :
      CloseKept y d :=
    closeKept_of_same hb hst hrun (fun r _ _ => sameShowings_named hshow r.used) hext (by rw [hclose]; exact id)
      fun n _ _ _ hn => by rw [hreached]; exact hn
  cases he with
  | same | marked | unlinked => exact hsame rfl rfl ⟨rfl, rfl⟩ rfl rfl
  | resulted p e _ _ hst => exact hscheduled hst
  | reached => exact lightly_closeKept (x := x) (h := h) .reached hb (.inl hreached)
  | confirmed hst => exact hsame (by rw [hst]; rfl) rfl ⟨rfl, rfl⟩ rfl rfl
  | started p key hp _ hcheck =>
    exact started_closeKept (hcurrent (h, b) hmem p (Option.mem_toList.mpr hp)) hfields hcheck hy
  | extended r hst hr => exact extended_closeKept hst hr hb hy
  | finished st reason hm => exact closeKept_not_running (finished_not_running (mayFinish_cases hm).2.1)
  | rescheduled f d st hst => exact hscheduled hst
  | announced a u st hst => exact hscheduled (by rw [reshown_frame]; exact hst)
  | attached a hst => exact hscheduled hst
  | refitted hr => exact refit_closeKept hr hb hy

/-- A change of the clock's time reaches the close points with it; any other leaves what is reached. -/
theorem changes_reached {s0 x y : State} (hc : Changes s0 x y) :
    (∀ h c, (h, c) ∉ occupied y) ∨ (∀ n, reached y n = reached x n) ∨
      ∀ h c, (h, c) ∈ occupied y → ∃ b, (h, b) ∈ occupied x ∧ c = reachClosePoint y b := by
  cases hc with
  | poweredOn => exact .inl fun _ _ => occupied_reset
  | clocked c hseconds hvalid =>
    refine .inr (.inl fun n => ?_)
    unfold reached
    rw [setClock_clock, hseconds, hvalid]
  | ticked => exact .inr (.inr fun h c hm => occupied_reached rfl hm)
  | timeSet => exact .inr (.inr fun h c hm => occupied_reached rfl hm)
  | finished h b st reason => exact .inr (.inl fun n => by unfold reached; rw [finishBooking_frame])
  | none | cleared | holdsLost | held | booked | bookedEpisode | freed | edited | unlinked | installed | begun | stepped
  | entered | removed | banded | queued | linkAdded | relinked | policySet => exact .inr (.inl fun _ => rfl)

theorem changes_closePoints {s0 x y : State} (hx : ClosePointsKept x) (hcurrent : CurrentFits x)
    (hfields : ∀ e ∈ occupied x, FieldsWf e.2) (hc : Changes s0 x y) : ClosePointsKept y := by
  rintro ⟨h, c⟩ hm
  show CloseKept y c
  have hold {g : Handle} {b : Booking} (hb : (g, b) ∈ occupied x) : CloseKept x b := hx (g, b) hb
  rcases changes_reached hc with hempty | hsame | hreach
  · exact absurd hm (hempty h c)
  · rcases changes_lightly hc with ⟨g, b, d, hb, he, rfl⟩ | hlight
    · rcases occupied_update hb hm with ⟨rfl, rfl⟩ | ⟨-, hmx⟩
      · exact edit_closeKept (edit_written he _ _) hcurrent hb (hfields _ hb) (hold hb) rfl
      · exact hold hmx
    · rcases hlight h c hm with ⟨-, -, hnew, -⟩ | ⟨b, hb, hl⟩
      · exact closeKept_not_running (by rw [creates_scheduled hnew]; rfl)
      · exact lightly_closeKept hl (hold hb) (.inl hsame)
  · obtain ⟨b, hb, rfl⟩ := hreach h c hm
    exact lightly_closeKept (x := x) (h := h) .reached (hold hb) (.inr rfl)

/-! ### O59 -/

/-- Settles O59: a raised version is one that no placement or result holds, a step's placement keeps to its showing, and
every close point written is the computed one, reached or ahead. -/
theorem windowsStayFitted : Obligations.WindowsStayFitted := by
  intro s t ⟨hstores, hfit, hclose⟩ ht
  rw [storesWf_iff] at hstores
  have h := step_keeps_with_request (I := fun s => TablesWf s ∧ PlacementsFit s ∧ ClosePointsKept s)
    (fun _ _ _ _ h => h) (fun _ _ _ hq hx => ⟨popped_tables hq hx.1, hx.2⟩)
    (fun _ _ _ hreq h0 ⟨htables, hplaced, hpoints⟩ hc =>
      ⟨changes_tables hreq h0.1 htables hc,
        ⟨changes_planning hc hplaced.1, changes_currentFits hplaced hc, changes_resultsFit hplaced hc⟩,
        changes_closePoints hpoints hplaced.2.1 htables.2.1 hc⟩)
    (fun y t hy hsame => by rw [hsame]; exact hy) s t ⟨⟨hstores.1, hfit, hclose⟩, hstores.2⟩ ht
  exact ⟨(storesWf_iff t).mpr ⟨h.1.1, h.2⟩, h.1.2⟩

end Sys2Proof.Machine
end

section
/-! PROOF. The pins and the port: transactions (O5, O6, O7), port reset (O8), the levels (O9), and power-on (O50, O51). -/

namespace Sys2Proof.Machine

/-! ### SS falls (O5) -/

theorem flagByte_getLsbD (a b c d e f g h : Bool) :
    let o := (flagByte [a, b, c, d, e, f, g, h]).headD 0
    o.getLsbD 7 = h ∧ o.getLsbD 6 = g ∧ o.getLsbD 5 = f ∧ o.getLsbD 4 = e ∧ o.getLsbD 3 = d ∧ o.getLsbD 2 = c ∧
      o.getLsbD 1 = b ∧ o.getLsbD 0 = a := by
  revert a b c d e f g h
  decide

/-- The image is the status octet and the bytes of the reply, if there is one (R171). -/
theorem imageBytes_eq (t : Transaction) :
    imageBytes t = t.status :: t.reply.toList.flatMap fun r =>
      [r.kind, replyCodeByte r.code, BitVec.ofNat 8 r.results.length] ++ r.results := by
  unfold imageBytes replyBytes
  cases t.reply <;> simp

/-- Settles O5: the three phases SS can fall in, and the bits of the status octet. -/
theorem transactionStartFixesTheImage : Obligations.TransactionStartFixesTheImage := by
  refine ⟨fun p => ?pin, fun s hlow => ?low, fun s hidle => ⟨fun hclear => ?begins, fun hhigh => ?ignored⟩⟩
  case pin => cases p <;> simp [misoPin]
  case low =>
    simp only [exec, execTransactionStart]
    split
    · next h => exact absurd h hlow
    all_goals rfl
  case begins =>
    refine ⟨statusOctet s, ?_, ?_, flagByte_getLsbD _ _ _ _ _ _ _ _⟩
    · simp [exec, execTransactionStart, hidle, hclear, setPort, outgoingImage]
    · simp only [misoPin, imageBytes_eq]
  case ignored => exact ⟨by simp [exec, execTransactionStart, hidle, hhigh, setPort], rfl⟩

/-! ### SS rises (O6, O7) -/

theorem shiftedOut_length (image : List Byte) (n : Nat) : (shiftedOut image n).length = n := by
  simp [shiftedOut]

/-- MISO carries the image and then zeros (R171). -/
theorem shiftedOut_getD (image : List Byte) {n i : Nat} (hi : i < n) : (shiftedOut image n).getD i 0 = image.getD i 0 := by
  rw [List.getD_eq_getElem?_getD, List.getD_eq_getElem?_getD, shiftedOut, List.getElem?_take_of_lt hi]
  by_cases hlt : i < image.length
  · rw [List.getElem?_append_left hlt]
  · have hle : image.length ≤ i := Nat.le_of_not_lt hlt
    rw [List.getElem?_append_right hle, List.getElem?_replicate_of_lt (by omega), List.getElem?_eq_none hle]
    rfl

/-- The port after SS rises in a transaction and the fetch of its reply, before any frame is judged (R172). -/
def fetched (p : Port) (tr : Transaction) (n : Nat) : Port := settleFetch (raiseSelect p n) tr n

theorem fetched_eq {p : Port} {tr : Transaction} (n : Nat) (hp : p.phase = .transaction tr) :
    fetched p tr n =
      { p with
        phase := .idle
        miso := some (shiftedOut (imageBytes tr) n)
        pendingReply :=
          if (∃ r ∈ tr.reply.toList, 4 + r.results.length ≤ n) ∧ tr.replaced = false then none else p.pendingReply
        replyLost := if ∃ r ∈ tr.reply.toList, 4 + r.results.length ≤ n then false else p.replyLost } := by
  unfold fetched settleFetch raiseSelect
  rw [hp]
  cases tr.reply with
  | none => simp [misoPin, recordMiso]
  | some r =>
    have hlength : 1 + replyLength r = 4 + r.results.length := by unfold replyLength; omega
    simp only [hlength, Option.toList_some, List.mem_singleton, exists_eq_left]
    by_cases hfull : 4 + r.results.length ≤ n
    · cases tr.replaced <;> simp [hfull, misoPin, recordMiso]
    · simp [hfull, misoPin, recordMiso]

theorem fetched_phase {p : Port} {tr : Transaction} (n : Nat) (hp : p.phase = .transaction tr) :
    (fetched p tr n).phase = .idle := by rw [fetched_eq n hp]

theorem exec_frameEnd {s : State} {tr : Transaction} (bytes : List Byte) (spare : List Bool)
    (hp : s.port.phase = .transaction tr) :
    exec (.frameEnd bytes spare) s = .next { s with port := judgeFrame (fetched s.port tr bytes.length) bytes } := by
  simp only [exec, execFrameEnd, endFrame, hp]
  rfl

/-- A frame of no byte or of the NOP kind is not judged (R173). -/
theorem judgeFrame_nop (p : Port) {bytes : List Byte} (h : ∀ k ∈ bytes.head?, k = 0#8) : judgeFrame p bytes = p := by
  cases bytes with
  | nil => rfl
  | cons kind rest => simp [judgeFrame, nopKind, h kind rfl]

/-- Settles O6: the frame is not judged, and the fetch alone is settled. -/
theorem nopFrameFetchesTheReply : Obligations.NopFrameFetchesTheReply := by
  intro s tr bytes spare hp hnop
  refine ⟨shiftedOut (imageBytes tr) bytes.length, ?_, shiftedOut_length _ _, fun i hi => ?_⟩
  · rw [exec_frameEnd bytes spare hp, judgeFrame_nop _ hnop, fetched_eq _ hp]
  · rw [shiftedOut_getD _ hi, imageBytes_eq]

theorem portReply_eq {p : Port} (kind : Byte) (code : ReplyCode) (hp : p.phase = .idle) :
    portReply p kind code =
      { p with rejected := false, pendingReply := some ⟨kind, code, []⟩, replyLost := p.replyLost || p.pendingReply.isSome } := by
  simp [portReply, pendReply, hp]

theorem not_fits_iff (length : Byte) (payload : List Byte) :
    (Config.payloadLimit < length.toNat ∨ payload.length < length.toNat) ↔
      (length :: payload = [] ∨ 96 < length.toNat ∨ (length :: payload).length < 1 + length.toNat) := by
  simp only [Config.payloadLimit, reduceCtorEq, List.length_cons, false_or]
  omega

/-- Settles O7: the first case of R173 and R191 that applies, on the port as the fetch leaves it. -/
theorem frameEndJudgesTheFrame : Obligations.FrameEndJudgesTheFrame := by
  refine ⟨fun s bytes spare => ⟨fun hp => ?cut, fun hp => ?ignored, fun hp => ?idle⟩,
    fun s tr p kind rest spare hp hkind hfetch => ?judged⟩
  case cut => simp [exec, execFrameEnd, endFrame, hp, setPort, raiseSelect, misoPin, recordMiso]
  case ignored =>
    simp [exec, execFrameEnd, endFrame, hp, setPort, raiseSelect, misoPin, recordMiso, shiftedOut]
  case idle => simp [exec, execFrameEnd, endFrame, hp, setPort]
  case judged =>
    have hfetched : p = fetched s.port tr (rest.length + 1) := by
      rw [exec_frameEnd _ _ hp, judgeFrame_nop _ (by simp [List.replicate_succ])] at hfetch
      simp only [List.length_replicate] at hfetch
      injection hfetch with hfetch
      exact (congrArg State.port hfetch).symm
    have hidle : p.phase = .idle := hfetched ▸ fetched_phase _ hp
    refine ⟨judgeFrame p (kind :: rest), by rw [exec_frameEnd _ _ hp, hfetched]; rfl, ?_⟩
    simp only [judgeFrame, show kind ≠ nopKind from hkind, if_false]
    by_cases hbusy : p.inProcess.isSome = true
    · simp only [hbusy, if_true]
    · simp only [hbusy, Bool.false_eq_true, if_false]
      cases rest with
      | nil => simp [portReply_eq kind .badLength hidle]
      | cons length payload =>
        simp only [List.headD_cons, judgePayload, not_fits_iff]
        by_cases hshort : length :: payload = [] ∨ 96 < length.toNat ∨ (length :: payload).length < 1 + length.toNat
        · rw [if_pos hshort, if_pos hshort, portReply_eq kind .badLength hidle]
        · rw [if_neg hshort, if_neg hshort]
          cases hk : kindLength kind with
          | none => exact portReply_eq kind .unknownKind hidle
          | some n =>
            dsimp only
            by_cases hlength : length.toNat = n
            · obtain ⟨r, hr⟩ := decodeRequest_of_kind kind n (payload.take n) hk
              rw [if_pos hlength, if_pos hlength]
              exact ⟨r, hr, by rw [hr]; rfl⟩
            · rw [if_neg hlength, if_neg hlength, portReply_eq kind .badLength hidle]

/-! ### PORTRESET (O8) -/

/-- Settles O8: the fall changes the level alone; the rise resets the port and drops the holds. -/
theorem portResetClearsThePort : Obligations.PortResetClearsThePort := by
  refine ⟨fun s => rfl, fun s hlow => ?_⟩
  have hexec : exec .portReset s =
      .next (settle (markStaleIf (anyFirmHold s) (dropHolds (setPort s (resetThePort s.port)) .portReset))) := by
    simp only [exec, execPortReset, hlow, Bool.false_eq_true, if_false]
  refine ⟨_, hexec, ?frame, ?port, fun T => ?holds, ?planner, settle_settled _⟩
  case frame => rw [markStaleIf_eq, dropHolds_frame]; rfl
  case port =>
    rw [settle_port, markStaleIf_port, dropHolds_frame]
    cases hphase : s.port.phase <;> simp [setPort, resetThePort, hphase]
  case holds =>
    rw [settle_holds, markStaleIf_holds, dropHolds_at]
    rfl
  case planner =>
    rw [settle_planner, markStaleIf_planner, dropHolds_frame]
    simp [setPort, anyFirmHold, Bool.or_assoc]

/-! ### The levels (O9) -/

theorem recordsOn_iff (T : Tuner) (b : Booking) :
    recordsOn T b = true ↔ b.state = .recording ∧ ∃ r ∈ b.running.toList, r.tuner = T := by
  unfold recordsOn
  cases b.running <;> simp

theorem approaches_isSome_iff (s : State) (lead : Nat) (b : Booking) :
    (approaches s lead b).isSome = true ↔
      ∃ p ∈ (currentPlacement b).toList, b.heldBack = false ∧ reached s (lapsePoint b) = false ∧
        reached s (p.openAt - lead) = true := by
  rw [Option.isSome_iff_exists]
  simp only [approaches_iff, Option.mem_toList]

/-- A booking conflicts with the SOFT hold of the tuner its placement names (R152). -/
theorem yieldsTo_iff (s : State) (b : Booking) :
    yieldsTo s b = true ↔
      ∃ p ∈ (currentPlacement b).toList, ∃ hold ∈ (softHold s p.tuner).toList,
        b.heldBack = false ∧ reached s (lapsePoint b) = false ∧ reached s (p.openAt - s.policy.yieldLead) = true ∧
          ∃ v ∈ (showingNamed b p.kind.used).toList, ∃ route ∈ (resolve s v.channel).toList,
            route.eligible.has p.tuner = true ∧
              (route.key ≠ hold.key ∨ s.policy.streamLimit < (countedOn s p.tuner none).length + 1 + 1) := by
  have hconflict (hold : Hold) (key : MuxKey) (n : Nat) :
      softConflict s hold key n = true ↔ key ≠ hold.key ∨ s.policy.streamLimit < n + 1 + 1 := by
    simp only [softConflict, Bool.or_eq_true, bne_iff_ne, decide_eq_true_eq, ne_comm (a := key)]
  constructor
  · intro h
    unfold yieldsTo at h
    split at h
    · next p hp =>
      obtain ⟨hcurrent, hheld, hlapse, hreached⟩ := (approaches_iff s _ b p).mp hp
      split at h
      · next hold route hhold hroute =>
        obtain ⟨v, hv, hr⟩ := Option.bind_eq_some_iff.mp hroute
        rw [Bool.and_eq_true, hconflict] at h
        exact ⟨p, Option.mem_toList.mpr hcurrent, hold, Option.mem_toList.mpr hhold, hheld, hlapse, hreached, v,
          Option.mem_toList.mpr hv, route, Option.mem_toList.mpr hr, h⟩
      · cases h
    · cases h
  · rintro ⟨p, hcurrent, hold, hhold, hheld, hlapse, hreached, v, hv, route, hr, h⟩
    simp only [Option.mem_toList] at hcurrent hhold hv hr
    have happroach := (approaches_iff s s.policy.yieldLead b p).mpr ⟨hcurrent, hheld, hlapse, hreached⟩
    simp only [yieldsTo, happroach, hhold, hv, Option.bind_some, hr, Bool.and_eq_true, hconflict]
    exact h

theorem someCause_iff (levels : PerCause Bool) (routings : PerCause Routing) (p : Routing → Bool) :
    someCause levels routings p = true ↔
      ∃ c ∈ (PerCause.toList levels).zip (PerCause.toList routings), c.1 = true ∧ p c.2 = true := by
  simp only [someCause, List.any_eq_true, Bool.and_eq_true]

theorem wake_iff (s : State) (request : Bool) :
    wakeCondition s request = true ↔
      (∃ e ∈ occupied s, ∃ p ∈ (currentPlacement e.2).toList, e.2.heldBack = false ∧
          reached s (lapsePoint e.2) = false ∧ reached s (p.openAt - s.policy.wakeLead) = true) ∨
        (∃ e ∈ occupied s, e.2.state = .starting) ∨ request = true := by
  simp only [wakeCondition, Bool.or_eq_true, List.any_eq_true, approaches_isSome_iff, beq_iff_eq, or_assoc]

/-- Settles O9: each level is read off the derivation. -/
theorem levelsFollowTheirRules : Obligations.LevelsFollowTheirRules := by
  intro s hs
  have hrec (T : Tuner) : recLine s T = true ↔
      ∃ e ∈ occupied s, e.2.state = .recording ∧ ∃ r ∈ e.2.running.toList, r.tuner = T := by
    simp only [recLine, List.any_eq_true, recordsOn_iff]
  unfold OutputsSettled at hs
  rw [hs]
  refine ⟨fun T => ?rec, ?wake, ?starting, ?clash, ?ended, ?clock, ?note, ?yield, ?attn, ?request⟩
  case rec => cases T <;> exact hrec _
  case wake =>
    simp only [deriveOutputs, Bool.and_eq_true, Bool.not_eq_true', wake_iff]
  case starting => exact startWaiting_iff s
  case clash => simp only [deriveOutputs, causeLevels, List.any_eq_true]
  case ended => simp only [deriveOutputs, causeLevels, List.any_eq_true]
  case clock => simp only [deriveOutputs, causeLevels, Bool.or_eq_true, Bool.not_eq_true']
  case note => simp only [deriveOutputs, causeLevels, List.any_eq_true, Bool.or_eq_true]
  case yield => simp only [deriveOutputs, causeLevels, yieldLevel, List.any_eq_true, yieldsTo_iff]
  case attn => simp only [deriveOutputs, attnLevel, someCause_iff, bne_iff_ne]
  case request => simp only [deriveOutputs, wakeRequestLevel, someCause_iff, beq_iff_eq]

/-! ### Power-on (O50, O51) -/

/-- Settles O50: the state after power-on, field by field. -/
theorem powerOnResetTakesTheResetValues : Obligations.PowerOnResetTakesTheResetValues :=
  ⟨fun _ => ⟨_, rfl, rfl, rfl, rfl, rfl, rfl, rfl, rfl, rfl, rfl, rfl, ⟨rfl, rfl, rfl, rfl⟩, rfl, rfl, rfl, rfl⟩,
    fun _ _ => ⟨_, rfl, rfl, settle_settled _⟩⟩

theorem not_mem_occupied_reset (e : Handle × Booking) : e ∉ occupied State.reset :=
  occupied_reset (q := State.reset.pending) (h := e.1) (c := e.2)

theorem occupied_reset_eq_nil : occupied State.reset = [] :=
  List.eq_nil_iff_forall_not_mem.mpr not_mem_occupied_reset

theorem occupiedLinks_reset_eq_nil : occupiedLinks State.reset = [] := by
  refine List.eq_nil_iff_forall_not_mem.mpr fun ⟨h, l⟩ hm => ?_
  rw [mem_occupiedLinks] at hm
  have := (List.mem_replicate.mp (List.mem_of_getElem? hm)).2
  simp at this

theorem bookingSlotsWf_reset : BookingSlotsWf State.reset :=
  ⟨List.length_replicate, fun sl hsl => by
    rw [(List.mem_replicate.mp hsl).2]
    exact ⟨Nat.zero_le _, fun h => by cases h⟩⟩

theorem linksWf_reset : LinksWf State.reset :=
  ⟨List.length_replicate, fun sl hsl => by
    rw [(List.mem_replicate.mp hsl).2]
    exact ⟨Nat.zero_le _, fun h => by cases h⟩, by rw [occupiedLinks_reset_eq_nil]; exact fun e he => absurd he List.not_mem_nil⟩

theorem storesWf_reset : StoresWf State.reset :=
  ⟨bookingSlotsWf_reset, by rw [occupied_reset_eq_nil]; exact fun e he => absurd he List.not_mem_nil, linksWf_reset,
    ⟨Nat.zero_le _, fun a ha => absurd ha List.not_mem_nil⟩,
    ⟨Nat.zero_le _, .nil, fun e he => absurd he List.not_mem_nil⟩, fun q hq => absurd hq List.not_mem_nil⟩

theorem planningWf_reset : PlanningWf State.reset := ⟨resetPolicy_wf, resetPlanner_wf, rfl⟩

theorem firmHold_reset (T : Tuner) : firmHold State.reset T = none := by cases T <;> rfl

theorem tunersLawful_reset : TunersLawful State.reset := by
  intro T
  have hrunning : runningOn State.reset T = [] := by
    unfold runningOn
    rw [occupied_reset_eq_nil, List.filter_nil]
  have hcounted : countedOn State.reset T none = [] := by
    unfold countedOn
    rw [hrunning, List.filter_nil]
  unfold streamCount
  rw [firmHold_reset, hrunning, hcounted]
  exact ⟨Nat.zero_le _, fun e he => absurd he List.not_mem_nil, fun hold hh => absurd hh List.not_mem_nil⟩

/-- Settles O51: the tables are empty, and clock, policy and planner have their power-on values. -/
theorem resetMeetsTheLaws : Obligations.ResetMeetsTheLaws := by
  have hall {P : Handle × Booking → Prop} : ∀ e ∈ occupied State.reset, P e :=
    fun e he => absurd he (not_mem_occupied_reset e)
  have hpass {P : PassRecord → Prop} : ∀ p ∈ State.reset.planner.pass.toList, P p := fun p hp => absurd hp List.not_mem_nil
  have hseries : SeriesUnique State.reset := by
    unfold SeriesUnique
    rw [occupiedLinks_reset_eq_nil]
    exact fun e he => absurd he List.not_mem_nil
  have htimers : TimersKept State.reset := ⟨resetClock_wf.2.2.2.2.2.2.2, resetPolicy_wf.2.2.2.2, hall⟩
  have hwindows : WindowsKept State.reset := ⟨storesWf_reset, ⟨planningWf_reset, hall, hpass⟩, hall⟩
  exact ⟨(powerOn_settled false).2.symm, storesWf_reset, resetClock_wf, planningWf_reset, hall, ⟨hall, hpass⟩,
    ⟨hall, hseries⟩, ⟨hall, hall⟩, tunersLawful_reset, htimers, hwindows⟩

end Sys2Proof.Machine
end

section
/-! PROOF. The payload of a well-formed request decodes to the request (O4): what a field read returns on a payload that
begins with the field's own bytes, and after bytes that stand before it. -/

namespace Sys2Proof.Machine

/-! ### A read past the first bytes of a payload -/

@[simp] theorem getD_skip (a p : List Byte) {i : Nat} (h : a.length ≤ i) : (a ++ p).getD i 0 = p.getD (i - a.length) 0 :=
  List.getD_append_right _ _ _ _ h

@[simp] theorem oneAt_skip (a p : List Byte) {i : Nat} (h : a.length ≤ i) : oneAt (a ++ p) i = oneAt p (i - a.length) := by
  simp only [oneAt, getD_skip a p h]

@[simp] theorem flagAt_skip (a p : List Byte) {i : Nat} (k : Nat) (h : a.length ≤ i) :
    flagAt (a ++ p) i k = flagAt p (i - a.length) k := by
  simp only [flagAt, getD_skip a p h]

@[simp] theorem twoAt_skip (a p : List Byte) {i : Nat} (h : a.length ≤ i) : twoAt (a ++ p) i = twoAt p (i - a.length) := by
  simp only [twoAt, oneAt_skip a p h, oneAt_skip a p (Nat.le_add_right_of_le h : a.length ≤ i + 1), Nat.sub_add_comm h]

@[simp] theorem fourAt_skip (a p : List Byte) {i : Nat} (h : a.length ≤ i) : fourAt (a ++ p) i = fourAt p (i - a.length) := by
  simp only [fourAt, twoAt_skip a p h, twoAt_skip a p (Nat.le_add_right_of_le h : a.length ≤ i + 2), Nat.sub_add_comm h]

@[simp] theorem signedTwoAt_skip (a p : List Byte) {i : Nat} (h : a.length ≤ i) :
    signedTwoAt (a ++ p) i = signedTwoAt p (i - a.length) := by
  simp only [signedTwoAt, twoAt_skip a p h]

@[simp] theorem handleAt_skip (a p : List Byte) {i : Nat} (h : a.length ≤ i) : handleAt (a ++ p) i = handleAt p (i - a.length) := by
  simp only [handleAt, oneAt_skip a p h, oneAt_skip a p (Nat.le_add_right_of_le h : a.length ≤ i + 1), Nat.sub_add_comm h]

@[simp] theorem showingAt_skip (a p : List Byte) {i : Nat} (h : a.length ≤ i) : showingAt (a ++ p) i = showingAt p (i - a.length) := by
  have past (n : Nat) : a.length ≤ i + n := Nat.le_add_right_of_le h
  simp only [showingAt, flagAt_skip a p _ h, twoAt_skip a p (past _), fourAt_skip a p (past _), Nat.sub_add_comm h]

/-! ### A read of a payload's first bytes -/

@[simp] theorem oneAt_oneByte {n : Nat} (p : List Byte) (h : fitsByte n = true) : oneAt (oneByte n ++ p) 0 = n := by
  have hn : n < 256 := of_decide_eq_true h
  simp [oneAt, oneByte]; omega

theorem twoAt_twoBytes_mod (n : Nat) (p : List Byte) : twoAt (twoBytes n ++ p) 0 = n % 65536 := by
  simp [twoAt, oneAt, twoBytes]; omega

@[simp] theorem twoAt_twoBytes {n : Nat} (p : List Byte) (h : fitsTwoBytes n = true) : twoAt (twoBytes n ++ p) 0 = n := by
  rw [twoAt_twoBytes_mod, Nat.mod_eq_of_lt (of_decide_eq_true h)]

@[simp] theorem fourAt_fourBytes {n : Nat} (p : List Byte) (h : fitsFourBytes n = true) : fourAt (fourBytes n ++ p) 0 = n := by
  have hn : n < 4294967296 := of_decide_eq_true h
  have low : twoAt (twoBytes (n / 65536) ++ (twoBytes n ++ p)) 2 = n % 65536 :=
    (twoAt_skip _ _ (Nat.le_refl 2)).trans (twoAt_twoBytes_mod n p)
  rw [fourAt, fourBytes, List.append_assoc, low, twoAt_twoBytes_mod]
  omega

@[simp] theorem signedTwoAt_signedTwoBytes {z : Int} (p : List Byte) (h : fitsSignedTwoBytes z = true) :
    signedTwoAt (signedTwoBytes z ++ p) 0 = z := by
  have hz : -32768 ≤ z ∧ z ≤ 32767 := by simpa [fitsSignedTwoBytes] using h
  rw [signedTwoAt, signedTwoBytes, twoAt_twoBytes_mod]
  split <;> omega

theorem testBit_packed (bits : List Bool) (k : Nat) :
    Nat.testBit (bits.foldr (fun (b : Bool) n => b.toNat + 2 * n) 0) k = bits.getD k false := by
  induction bits generalizing k with
  | nil => simp
  | cons b bits ih =>
    cases k with
    | zero => cases b <;> simp [Nat.testBit_zero]
    | succ k =>
      have hhalf (n : Nat) : (b.toNat + 2 * n) / 2 = n := by
        cases b
        · simp only [Bool.toNat_false]; omega
        · simp only [Bool.toNat_true]; omega
      simp only [List.foldr_cons, Nat.testBit_succ, hhalf, ih, List.getD_cons_succ]

@[simp] theorem flagAt_flagByte (bits : List Bool) (p : List Byte) {k : Nat} (h : bits.length ≤ 8) :
    flagAt (flagByte bits ++ p) 0 k = bits.getD k false := by
  by_cases hk : k < 8
  · rw [← testBit_packed bits]
    exact (BitVec.getLsbD_ofNat 8 _ k).trans (by rw [decide_eq_true hk, Bool.true_and])
  · rw [List.getD_eq_default _ _ (by omega), flagAt]
    exact BitVec.getLsbD_of_ge _ _ (by omega)

@[simp] theorem handleAt_handleBytes {h : Handle} (p : List Byte) (hw : h.wellFormed = true) : handleAt (handleBytes h ++ p) 0 = h := by
  obtain ⟨hslot, htag⟩ : fitsByte h.slot = true ∧ fitsByte h.tag = true := by simpa [Handle.wellFormed] using hw
  have htagAt : oneAt (oneByte h.slot ++ (oneByte h.tag ++ p)) 1 = h.tag :=
    (oneAt_skip _ _ (Nat.le_refl 1)).trans (oneAt_oneByte p htag)
  rw [handleAt, handleBytes, List.append_assoc, oneAt_oneByte _ hslot, htagAt]

@[simp] theorem whenSet_isSome {α : Type} (o : Option α) (d : α) : whenSet o.isSome (o.getD d) = o := by
  cases o <;> rfl

@[simp] theorem whenSet_getD {α : Type} (o : Option α) (d : α) : whenSet o.isSome (o.getD d) = o := by
  cases o <;> rfl

theorem fits_getD {fits : Nat → Bool} {o : Option Nat} (h : optionFits fits o = true) (h0 : fits 0 = true) :
    fits (o.getD 0) = true := by
  cases o with
  | none => exact h0
  | some n => simpa [optionFits] using h

@[simp] theorem length_oneByte (n : Nat) : (oneByte n).length = 1 := by simp [oneByte]
@[simp] theorem length_twoBytes (n : Nat) : (twoBytes n).length = 2 := by simp [twoBytes]
@[simp] theorem length_fourBytes (n : Nat) : (fourBytes n).length = 4 := by simp [fourBytes]
@[simp] theorem length_signedTwoBytes (z : Int) : (signedTwoBytes z).length = 2 := by simp [signedTwoBytes]
@[simp] theorem length_flagByte (bits : List Bool) : (flagByte bits).length = 1 := by simp [flagByte]
@[simp] theorem length_handleBytes (h : Handle) : (handleBytes h).length = 2 := by simp [handleBytes]
@[simp] theorem length_showingBytes (v : Showing) : (showingBytes v).length = 13 := by simp [showingBytes]

/-- A showing's thirteen bytes decode to the showing (section 12.1). -/
@[simp] theorem showingAt_showingBytes {v : Showing} (p : List Byte) (h : v.wellFormed = true) :
    showingAt (showingBytes v ++ p) 0 = v := by
  obtain ⟨⟨⟨hchannel, hevent⟩, hstart⟩, hduration⟩ :
      ((fitsTwoBytes v.channel = true ∧ optionFits fitsTwoBytes v.event = true) ∧ fitsFourBytes v.start = true) ∧
        fitsFourBytes v.duration = true := by simpa [Showing.wellFormed] using h
  have heventGetD := fits_getD hevent rfl
  simp [showingAt, showingBytes, *]

/-- A showing that may be absent decodes by its presence bit (R193). -/
theorem whenSet_optionalShowing {v : Option Showing} (p : List Byte) (h : v.all Showing.wellFormed = true) :
    whenSet v.isSome (showingAt (optionalShowingBytes v ++ p) 0) = v := by
  cases v with
  | none => rfl
  | some v =>
    have hv : v.wellFormed = true := by simpa using h
    simp [whenSet, optionalShowingBytes, hv]

/-! ### Where a payload ends with the field, or begins with a byte as sent -/

@[simp] theorem oneAt_end {n : Nat} (h : fitsByte n = true) : oneAt (oneByte n) 0 = n := by
  simpa using oneAt_oneByte [] h

@[simp] theorem twoAt_end {n : Nat} (h : fitsTwoBytes n = true) : twoAt (twoBytes n) 0 = n := by
  simpa using twoAt_twoBytes [] h

@[simp] theorem fourAt_end {n : Nat} (h : fitsFourBytes n = true) : fourAt (fourBytes n) 0 = n := by
  simpa using fourAt_fourBytes [] h

@[simp] theorem signedTwoAt_end {z : Int} (h : fitsSignedTwoBytes z = true) : signedTwoAt (signedTwoBytes z) 0 = z := by
  simpa using signedTwoAt_signedTwoBytes [] h

@[simp] theorem handleAt_end {h : Handle} (hw : h.wellFormed = true) : handleAt (handleBytes h) 0 = h := by
  simpa using handleAt_handleBytes [] hw

@[simp] theorem oneAt_cons (b : Byte) (p : List Byte) (i : Nat) : oneAt (b :: p) (i + 1) = oneAt p i := by simp [oneAt]

@[simp] theorem flagAt_cons (b : Byte) (p : List Byte) (i k : Nat) : flagAt (b :: p) (i + 1) k = flagAt p i k := by
  simp [flagAt]

@[simp] theorem handleAt_cons (b : Byte) (p : List Byte) (i : Nat) : handleAt (b :: p) (i + 1) = handleAt p i := by
  simp [handleAt]

/-! ### The payloads of the requests with many fields -/

theorem addBookingAt_encodeRequest {f : AddBookingFields} (h : f.wellFormed = true) :
    addBookingAt (encodeRequest (.addBooking f)) = f := by
  simp only [AddBookingFields.wellFormed, Bool.and_eq_true] at h
  obtain ⟨⟨⟨⟨⟨hprimary, halternative⟩, hepisode⟩, hpre⟩, hpost⟩, hpriority⟩ := h
  have hid := fits_getD hepisode rfl
  simp [addBookingAt, encodeRequest, whenSet_optionalShowing, *]

theorem amendBookingAt_encodeRequest {h : Handle} {f : AmendBookingFields} (hw : f.wellFormed = true) :
    amendBookingAt (encodeRequest (.amendBooking h f)) = f := by
  simp only [AmendBookingFields.wellFormed, Bool.and_eq_true] at hw
  obtain ⟨⟨⟨⟨hprimary, halternative⟩, hpre⟩, hpost⟩, hpriority⟩ := hw
  simp [amendBookingAt, encodeRequest, whenSet_optionalShowing, *]

theorem listAt_encodeRequest {f : ListFields} (h : f.wellFormed = true) : listAt (encodeRequest (.list f)) = f := by
  simp only [ListFields.wellFormed, Bool.and_eq_true] at h
  obtain ⟨⟨horigin, hlink⟩, hstart⟩ := h
  have hcode := fits_getD horigin rfl
  have hhandle : (f.link.getD ⟨0, 0⟩).wellFormed = true := by
    cases hl : f.link with
    | none => rfl
    | some l => simpa [hl] using hlink
  simp [listAt, encodeRequest, *]

theorem linkFieldsAt_addLink {series : Nat} {status : Option Nat} {f : LinkFields} (h : f.wellFormed = true) :
    linkFieldsAt (encodeRequest (.addLink series status f)) 0 5 9 = f := by
  simp only [LinkFields.wellFormed, Bool.and_eq_true] at h
  obtain ⟨⟨⟨⟨⟨hpreference, hpolicy⟩, hpriority⟩, hpre⟩, hpost⟩, hkeep⟩ := h
  simp [linkFieldsAt, encodeRequest, linkTailBytes, *]

theorem linkFieldsAt_amendLink {h : Handle} {f : LinkFields} (hw : f.wellFormed = true) :
    linkFieldsAt (encodeRequest (.amendLink h f)) 2 3 6 = f := by
  simp only [LinkFields.wellFormed, Bool.and_eq_true] at hw
  obtain ⟨⟨⟨⟨⟨hpreference, hpolicy⟩, hpriority⟩, hpre⟩, hpost⟩, hkeep⟩ := hw
  simp [linkFieldsAt, encodeRequest, linkTailBytes, *]

theorem announceAt_encodeRequest {f : AnnounceFields} (h : f.wellFormed = true) :
    announceAt (encodeRequest (.announce f)) = f := by
  simp only [AnnounceFields.wellFormed, Bool.and_eq_true] at h
  obtain ⟨⟨⟨⟨⟨⟨hchannel, hevent⟩, hstart⟩, hduration⟩, hseries⟩, hepisode⟩, hstatus⟩ := h
  have heventId := fits_getD hevent rfl
  have hseriesId := fits_getD hseries rfl
  have hepisodeId := fits_getD hepisode rfl
  simp [announceAt, encodeRequest, *]

theorem policyAt_encodeRequest {f : PolicyFields} (h : f.wellFormed = true) :
    policyAt (encodeRequest (.setPolicy f)) = f := by
  simp only [PolicyFields.wellFormed, Bool.and_eq_true] at h
  obtain ⟨⟨⟨⟨⟨⟨⟨⟨⟨h1, h2⟩, h3⟩, h4⟩, hstreams⟩, hwake⟩, hyield⟩, hconfirm⟩, hband⟩, hmode⟩ := h
  simp [policyAt, encodeRequest, *]

/-! ### Lengths, kinds and requests (O4) -/

/-- A request's payload has the length its kind requires (section 12.3). -/
theorem kindLength_kindOf (r : Request) : kindLength (kindOf r) = some (encodeRequest r).length := by
  cases r <;> simp [encodeRequest, linkTailBytes] <;> rfl

theorem decodeRequest_encodeRequest {r : Request} (h : r.wellFormed = true) :
    decodeRequest (kindOf r) (encodeRequest r) = some r := by
  cases r <;> simp only [Request.wellFormed, Bool.and_eq_true] at h
  case addBooking f => exact congrArg (some ∘ Request.addBooking) (addBookingAt_encodeRequest h)
  case amendBooking hd f =>
    have hhandle : handleAt (encodeRequest (.amendBooking hd f)) 0 = hd := by simp [encodeRequest, h.1]
    exact congrArg₂ (fun a b => some (Request.amendBooking a b)) hhandle (amendBookingAt_encodeRequest h.2)
  case list f => exact congrArg (some ∘ Request.list) (listAt_encodeRequest h)
  case announce f => exact congrArg (some ∘ Request.announce) (announceAt_encodeRequest h)
  case setPolicy f => exact congrArg (some ∘ Request.setPolicy) (policyAt_encodeRequest h)
  case addLink series status f =>
    obtain ⟨⟨hseries, hstatus⟩, hf⟩ := h
    have hcode := fits_getD hstatus rfl
    have hfields := linkFieldsAt_addLink (series := series) (status := status) hf
    simp only [decodeRequest, kindOf, BitVec.toNat_ofNat, Nat.reducePow, Nat.reduceMod, hfields]
    simp [encodeRequest, *]
  case amendLink hd f =>
    have hfields := linkFieldsAt_amendLink (h := hd) h.2
    simp only [decodeRequest, kindOf, BitVec.toNat_ofNat, Nat.reducePow, Nat.reduceMod, hfields]
    simp [encodeRequest, h.1]
  all_goals simp [decodeRequest, kindOf, encodeRequest, routingAt, *]

/-- Settles O4: the length by the kind, and each field read back from its own bytes. -/
theorem requestPayloadsDecodeBack : Obligations.RequestPayloadsDecodeBack := fun r hr =>
  ⟨kindLength_kindOf r, decodeRequest_encodeRequest hr⟩

end Sys2Proof.Machine
end

section
/-! PROOF. Every request in process is answered once (O3): what the owner of each request answers, and the port's completion
event. -/

namespace Sys2Proof.Machine

/-- An owner's answer fits the port: the port is left alone, the results fit their length byte, and a refusal has no results
and changes nothing (R176, R192). -/
def Answered (s : State) (x : State × Answer) : Prop :=
  x.1.port = s.port ∧ x.2.results.length ≤ 255 ∧
    (x.2.code ≠ .ok → x.2.code ≠ .adjusted → x.2.results = [] ∧ x.1 = s)

theorem answered_refuse (s : State) (c : ReplyCode) : Answered s (refuse s c) :=
  ⟨rfl, Nat.zero_le _, fun _ _ => ⟨rfl, rfl⟩⟩

theorem answered_accept {s t : State} {results : List Byte} (adjusted : Bool) (hport : t.port = s.port)
    (hlength : results.length ≤ 255) : Answered s (accept t adjusted results) := by
  refine ⟨hport, hlength, fun hok hadjusted => ?_⟩
  cases adjusted
  · exact absurd rfl hok
  · exact absurd rfl hadjusted

/-- An answer whose results have a fixed length. -/
theorem answered_fixed {s t : State} {results : List Byte} {n : Nat} (adjusted : Bool) (hport : t.port = s.port)
    (hlength : results.length = n) (hn : n ≤ 255 := by decide) : Answered s (accept t adjusted results) :=
  answered_accept adjusted hport (hlength.trans_le hn)

/-! ### Lengths of results (section 12.4) -/

@[simp] theorem length_signedFourBytes (z : Int) : (signedFourBytes z).length = 4 := by simp [signedFourBytes]
@[simp] theorem length_boolByte (b : Bool) : (boolByte b).length = 1 := by simp [boolByte]
@[simp] theorem length_presentFourBytes (o : Option Nat) : (presentFourBytes o).length = 5 := by simp [presentFourBytes]
@[simp] theorem length_presentHandleBytes (o : Option Handle) : (presentHandleBytes o).length = 3 := by
  simp [presentHandleBytes]
@[simp] theorem length_holdBytes (h : Hold) : (holdBytes h).length = 10 := by simp [holdBytes]
@[simp] theorem length_holdRecordBytes (r : HoldRecord) : (holdRecordBytes r).length = 12 := by
  cases hr : r.hold <;> simp [holdRecordBytes, hr]
@[simp] theorem length_planItemBytes (i : PlanItem) : (planItemBytes i).length = 14 := by simp [planItemBytes]

theorem length_bookingImage (h : Handle) (b : Booking) : (bookingImage h b).length = 82 := by simp [bookingImage]

/-- Blocks of one length, one after another. -/
theorem length_flatMap_blocks {α : Type} {f : α → List Byte} {n : Nat} (hf : ∀ x, (f x).length = n) (xs : List α) :
    (xs.flatMap f).length = n * xs.length := by
  simp [List.length_flatMap, hf, Nat.mul_comm]

theorem length_linkImage (h : Handle) (l : Link) (m n : Nat) : (linkImage h l m n).length = 52 := by
  simp [linkImage, historyBytes, length_flatMap_blocks length_fourBytes, Config.historyPlaces]

theorem length_listResults (hs : List Handle) : (listResults hs).length ≤ 34 := by
  simp [listResults, length_flatMap_blocks length_handleBytes, Config.listPlaces]
  omega

theorem length_planBytes (s : State) (items : List PlanItem) : (planBytes s items).length ≤ 89 := by
  simp [planBytes, length_flatMap_blocks length_planItemBytes, Config.planPlaces]
  omega

/-! ### What an owner leaves of the port -/

theorem moveEnd_port (s : State) (h : Handle) (b : Booking) (newPost : Option Nat) : (moveEnd s h b newPost).port = s.port := by
  unfold moveEnd
  split
  · rfl
  · split
    · rfl
    · dsimp only
      split
      · rw [closeBooking_port, updateBooking_port]
      · rw [markStaleIf_port, updateBooking_port]

theorem amendRunning_port (s : State) (h : Handle) (b : Booking) (f : AmendBookingFields) :
    (amendRunning s h b f).port = s.port := by
  unfold amendRunning
  dsimp only
  split
  · rw [moveEnd_port, updateBooking_port]
  · rw [updateBooking_port]

theorem clearAll_port (s : State) : (clearAll s).port = s.port := by
  simp [clearAll, dropHolds]

theorem takeMark_port (s : State) (k : MarkKind) (w f : Nat) (d : Int) : (takeMark s k w f d).port = s.port := by
  cases k <;> simp [takeMark]

/-! ### The requests of each block -/

section bookings
variable (s : State) (h : Handle)

theorem takeAddBooking_answered (f : AddBookingFields) : Answered s (takeAddBooking s f) := by
  unfold takeAddBooking
  split
  · exact answered_refuse s _
  · split
    · exact answered_refuse s _
    · split
      · exact answered_refuse s _
      · split
        · exact answered_refuse s _
        · exact answered_fixed _ (by simp) (length_handleBytes _)

theorem takeAmendBooking_answered (f : AmendBookingFields) : Answered s (takeAmendBooking s h f) := by
  unfold takeAmendBooking
  split
  · exact answered_refuse s _
  · split
    · exact answered_refuse s _
    · split
      · dsimp only
        split
        · exact answered_refuse s _
        · exact answered_fixed _ (by simp [amendScheduled]) rfl
      · split
        · dsimp only
          split
          · exact answered_fixed _ (by rw [settle_port, amendRunning_port]) rfl
          · exact answered_refuse s _
        · exact answered_refuse s _

theorem takeWithdraw_answered : Answered s (takeWithdraw s h) := by
  unfold takeWithdraw
  split
  · exact answered_refuse s _
  · split
    · exact answered_fixed _ (by simp) rfl
    · exact answered_fixed _ (by rw [settle_port, finishBooking_port]) rfl
    · exact answered_fixed _ (by rw [settle_port, finishBooking_port]) rfl
    all_goals exact answered_fixed _ (by simp) rfl

theorem takeReadBooking_answered : Answered s (takeReadBooking s h) := by
  unfold takeReadBooking
  split
  · exact answered_refuse s _
  · exact answered_fixed _ rfl (length_bookingImage _ _)

theorem takeList_answered (f : ListFields) : Answered s (takeList s f) := by
  unfold takeList
  split
  · split
    · exact answered_accept _ rfl ((length_listResults _).trans (by decide))
    · exact answered_refuse s _
  · exact answered_refuse s _

theorem takeFind_answered (channel event : Nat) : Answered s (takeFind s channel event) := by
  unfold takeFind
  split
  · split
    · exact answered_fixed _ rfl (n := 3) (by simp)
    · exact answered_refuse s _
  · exact answered_refuse s _

theorem takeConfirm_answered : Answered s (takeConfirm s h) := by
  unfold takeConfirm
  split
  · exact answered_refuse s _
  · split
    · exact answered_fixed _ (by simp) rfl
    · exact answered_refuse s _

theorem takeDecline_answered : Answered s (takeDecline s h) := by
  unfold takeDecline
  split
  · exact answered_refuse s _
  · split
    · exact answered_fixed _ (by rw [settle_port, finishBooking_port]) rfl
    · exact answered_refuse s _

theorem takeStop_answered : Answered s (takeStop s h) := by
  unfold takeStop
  split
  · exact answered_refuse s _
  · split
    · exact answered_fixed _ (by rw [settle_port, finishBooking_port]) rfl
    · exact answered_refuse s _

theorem takeAckClash_answered : Answered s (takeAckClash s h) := by
  unfold takeAckClash
  split
  · exact answered_refuse s _
  · split
    · exact answered_fixed _ (by simp) (n := 2) (by simp)
    · exact answered_fixed _ rfl (n := 2) (by simp)

end bookings

section stores
variable (s : State)

theorem takeSetChannel_answered (channel mux band : Nat) : Answered s (takeSetChannel s channel mux band) := by
  unfold takeSetChannel
  split
  · split
    · dsimp only
      split
      · exact answered_refuse s _
      · exact answered_fixed _ (by simp; rfl) (length_boolByte _)
    · exact answered_refuse s _
  · exact answered_refuse s _

theorem takeRemoveChannel_answered (channel : Nat) : Answered s (takeRemoveChannel s channel) := by
  unfold takeRemoveChannel
  split
  · split
    · exact answered_fixed _ rfl rfl
    · exact answered_refuse s _
  · exact answered_refuse s _

theorem takeReadChannel_answered (channel : Nat) : Answered s (takeReadChannel s channel) := by
  unfold takeReadChannel
  split
  · split
    · exact answered_fixed _ rfl (n := 8) (by simp)
    · exact answered_refuse s _
  · exact answered_refuse s _

theorem takeSetBand_answered (band eligible : Nat) : Answered s (takeSetBand s band eligible) := by
  unfold takeSetBand
  split
  · exact answered_fixed _ (by simp) (n := 4) (by simp [bandBytes])
  · exact answered_refuse s _

theorem takeHold_answered (tuner channel kind : Nat) : Answered s (takeHold s tuner channel kind) := by
  unfold takeHold
  split
  · split
    · split
      · exact answered_refuse s _
      · split
        · split
          · exact answered_refuse s _
          · exact answered_fixed _ (by simp) (n := 11) (by simp)
        · exact answered_refuse s _
    · exact answered_refuse s _
  · exact answered_refuse s _

theorem takeRelease_answered (tuner : Nat) : Answered s (takeRelease s tuner) := by
  unfold takeRelease
  split
  · exact answered_fixed _ (by simp) (length_oneByte _)
  · exact answered_refuse s _

theorem takeAddLink_answered (series : Nat) (status : Option Nat) (f : LinkFields) :
    Answered s (takeAddLink s series status f) := by
  unfold takeAddLink
  split
  · split
    · exact answered_refuse s _
    · split
      · exact answered_refuse s _
      · split
        · exact answered_refuse s _
        · exact answered_fixed _ (by simp) (length_handleBytes _)
  · exact answered_refuse s _

theorem takeAmendLink_answered (h : Handle) (f : LinkFields) : Answered s (takeAmendLink s h f) := by
  unfold takeAmendLink
  split
  · split
    · exact answered_refuse s _
    · exact answered_fixed _ (by simp) rfl
  · exact answered_refuse s _

theorem takeSetLinkStatus_answered (h : Handle) (status : Nat) : Answered s (takeSetLinkStatus s h status) := by
  unfold takeSetLinkStatus
  split
  · split
    · exact answered_refuse s _
    · exact answered_fixed _ (by simp) (length_oneByte _)
  · exact answered_refuse s _

theorem takeRemoveLink_answered (h : Handle) (disposal : Nat) : Answered s (takeRemoveLink s h disposal) := by
  unfold takeRemoveLink
  split
  · split
    · exact answered_refuse s _
    · exact answered_fixed _ rfl (length_oneByte _)
  · split
    · exact answered_refuse s _
    · exact answered_fixed _ rfl (n := 2) (by simp)
  · exact answered_refuse s _

theorem takeReadLink_answered (h : Handle) : Answered s (takeReadLink s h) := by
  unfold takeReadLink
  split
  · exact answered_refuse s _
  · exact answered_fixed _ (by simp) (length_linkImage _ _ _ _)

theorem takeListLinks_answered (statuses : Byte) (noted : Bool) (start : Nat) :
    Answered s (takeListLinks s statuses noted start) := by
  unfold takeListLinks
  split
  · exact answered_accept _ rfl ((length_listResults _).trans (by decide))
  · exact answered_refuse s _

theorem takeAnnounce_answered (f : AnnounceFields) : Answered s (takeAnnounce s f) := by
  unfold takeAnnounce
  split
  · exact answered_refuse s _
  · split
    · exact answered_refuse s _
    · exact answered_fixed _ rfl (length_oneByte _)

theorem takePlanNow_answered : Answered s (takePlanNow s) := by
  unfold takePlanNow
  split
  · exact answered_fixed _ rfl (n := 3) (by simp)
  · exact answered_fixed _ rfl (n := 3) (by simp)

theorem takeReadPlan_answered (tuner fromTime : Nat) : Answered s (takeReadPlan s tuner fromTime) := by
  unfold takeReadPlan
  split
  · exact answered_accept _ rfl ((length_planBytes _ _).trans (by decide))
  · exact answered_refuse s _

theorem takeSetTime_answered (seconds sixtyFourths force : Nat) : Answered s (takeSetTime s seconds sixtyFourths force) := by
  unfold takeSetTime
  split
  · split
    · exact answered_fixed _ (takeMark_port _ _ _ _ _) (n := 5) (by simp)
    · exact answered_refuse s _
  · exact answered_refuse s _

theorem takeSetPolicy_answered (f : PolicyFields) : Answered s (takeSetPolicy s f) := by
  unfold takeSetPolicy
  split
  · exact answered_refuse s _
  · exact answered_fixed _ (by simp) (n := 17) (by simp [policyBytes])

theorem takeSetRouting_answered (r : PerCause Nat) : Answered s (takeSetRouting s r) := by
  unfold takeSetRouting
  split
  · exact answered_fixed _ rfl (n := 6) (by simp [routingBytes, PerCause.toList])
  · exact answered_refuse s _

end stores

/-! ### Every request (O3) -/

theorem taken_answered (s : State) (r : Request) : Answered s (taken s r) := by
  cases r with
  | addBooking f => exact takeAddBooking_answered s f
  | amendBooking h f => exact takeAmendBooking_answered s h f
  | withdraw h => exact takeWithdraw_answered s h
  | readBooking h => exact takeReadBooking_answered s h
  | list f => exact takeList_answered s f
  | find channel event => exact takeFind_answered s channel event
  | setChannel channel mux band => exact takeSetChannel_answered s channel mux band
  | removeChannel channel => exact takeRemoveChannel_answered s channel
  | readChannel channel => exact takeReadChannel_answered s channel
  | setBand band eligible => exact takeSetBand_answered s band eligible
  | hold tuner channel kind => exact takeHold_answered s tuner channel kind
  | release tuner => exact takeRelease_answered s tuner
  | readHolds => exact answered_fixed false rfl (n := 24) (by simp)
  | addLink series status f => exact takeAddLink_answered s series status f
  | amendLink h f => exact takeAmendLink_answered s h f
  | setLinkStatus h status => exact takeSetLinkStatus_answered s h status
  | removeLink h disposal => exact takeRemoveLink_answered s h disposal
  | readLink h => exact takeReadLink_answered s h
  | listLinks statuses noted start => exact takeListLinks_answered s statuses noted start
  | announce f => exact takeAnnounce_answered s f
  | planNow => exact takePlanNow_answered s
  | readPlanner => exact answered_fixed false rfl (n := 16) (by simp [plannerBytes])
  | readPlan tuner fromTime => exact takeReadPlan_answered s tuner fromTime
  | confirm h => exact takeConfirm_answered s h
  | decline h => exact takeDecline_answered s h
  | stop h => exact takeStop_answered s h
  | setTime seconds sixtyFourths force => exact takeSetTime_answered s seconds sixtyFourths force
  | setTrim trim => exact answered_fixed _ rfl (length_signedTwoBytes _)
  | readClock => exact answered_fixed false rfl (n := 15) (by simp [clockBytes])
  | setPolicy f => exact takeSetPolicy_answered s f
  | readPolicy => exact answered_fixed false rfl (n := 17) (by simp [policyBytes])
  | readCauses => exact answered_fixed false rfl (n := 18) (by simp [causesBytes, causeBytes, PerCause.toList])
  | setRouting r => exact takeSetRouting_answered s r
  | ackClash h => exact takeAckClash_answered s h
  | clearAll => exact answered_fixed false (clearAll_port s) rfl

/-- Settles O3: the owner's answer goes through the port's completion event. -/
theorem everyRequestIsAnswered : Obligations.EveryRequestIsAnswered := by
  intro s r d ht
  obtain ⟨hport, hlength, hrefused⟩ := taken_answered s r
  refine ⟨_, (taken s r).2.code, (taken s r).2.results, exec_completion ht, completeRequest_replied r d _ hport, hlength, ?_⟩
  intro hok hadjusted
  obtain ⟨hempty, hsame⟩ := hrefused hok hadjusted
  exact ⟨hempty, by simp only [completeRequest, hsame]⟩

end Sys2Proof.Machine
end

section
/-! PROOF. The Booking Table: tags and versions (O12), ADD_BOOKING (O10), the refusals (O11), the amend of a SCHEDULED booking
(O13), and WITHDRAW (O16). -/

namespace Sys2Proof.Machine

theorem bne_eq_decide_ne {α : Type} [DecidableEq α] (a b : α) : (a != b) = decide (a ≠ b) := by
  by_cases h : a = b <;> simp [h]

/-! ### Tags and versions (O12) -/

theorem recordedByPass_iff (s : State) (h : Handle) :
    recordedByPass s h = true ↔ ∃ p ∈ s.planner.pass.toList, ∃ e ∈ p.order, e.handle = h := by
  unfold recordedByPass
  split
  · next p hp => simp [hp]
  · next hnone => simp [hnone]

/-- A pass that recorded one tag of a slot recorded no other: its order names each slot once (R93, R104). -/
theorem recordedByPass_once {s : State} {slot m n : Nat}
    (hnodup : ∀ p ∈ s.planner.pass.toList, (p.order.map fun e => e.handle.slot).Nodup)
    (hm : recordedByPass s ⟨slot, m⟩ = true) (hn : recordedByPass s ⟨slot, n⟩ = true) : m = n := by
  obtain ⟨p, hp, e, he, hem⟩ := (recordedByPass_iff s _).mp hm
  obtain ⟨q, hq, g, hg, hgn⟩ := (recordedByPass_iff s _).mp hn
  have hpq : q = p := Option.some.inj ((Option.mem_toList.mp hq).symm.trans (Option.mem_toList.mp hp))
  subst hpq
  have heg : e = g := List.inj_on_of_nodup_map (hnodup q hq) he hg (by rw [hem, hgn])
  exact congrArg Handle.tag ((hem.symm.trans (congrArg _ heg)).trans hgn)

theorem nextBookingTag_ne_last (s : State) (slot : Nat) (h : tagAt s slot ≤ 255) : nextBookingTag s slot ≠ tagAt s slot := by
  unfold nextBookingTag
  dsimp only
  split
  · rw [tagAfter_spec _ (tagAfter_range _).2, tagAfter_spec _ h]
    split <;> split <;> omega
  · rw [tagAfter_spec _ h]
    split <;> omega

theorem nextBookingTag_unseen (s : State) (slot : Nat)
    (hnodup : ∀ p ∈ s.planner.pass.toList, (p.order.map fun e => e.handle.slot).Nodup) :
    recordedByPass s ⟨slot, nextBookingTag s slot⟩ = false := by
  rw [Bool.eq_false_iff]
  intro hrecorded
  unfold nextBookingTag at hrecorded
  dsimp only at hrecorded
  split at hrecorded
  · next hfirst =>
    have hsame := recordedByPass_once hnodup hfirst hrecorded
    rw [tagAfter_spec _ (tagAfter_range _).2] at hsame
    split at hsame <;> omega
  · next hfirst => exact hfirst hrecorded

/-- Settles O12: the tag by the two ways it is chosen, the version by the search of R6. -/
theorem tagsAndVersionsAreFresh : Obligations.TagsAndVersionsAreFresh := by
  refine ⟨?tags, ?versions⟩
  case tags =>
    intro s slot hlast hnodup
    have hrange := nextBookingTag_range s slot
    refine ⟨tagAfter (tagAt s slot), tagAfter_spec _ hlast, ?_, ?_, hrange.1, hrange.2, nextBookingTag_ne_last s slot hlast,
      nextBookingTag_unseen s slot hnodup⟩
    · intro hfree
      simp only [nextBookingTag, hfree, Bool.false_eq_true, if_false]
    · intro hrecorded
      simp only [nextBookingTag, hrecorded, if_true]
      exact tagAfter_spec _ (tagAfter_range _).2
  case versions =>
    intro s h b hlength
    obtain ⟨m, hm1, hm2, hfree⟩ := exists_version_free _ b.version hlength
    obtain ⟨k, hk1, hk2, hraised, hnew, hfirst⟩ :=
      stepOver_spec ((stampOf b).toList ++ seenVersions s h) b.version 256 1 (fun j hj hj1 => by omega) ⟨m, hm1, hm2, hfree⟩
        (Nat.le_refl 1)
    have hversion : raisedVersion s h b = (b.version + k) % 256 := hraised
    exact ⟨k, hk1, by omega, hversion, hversion ▸ hnew, hfirst⟩

/-! ### ADD_BOOKING (O10) -/

theorem takeAddBooking_full {s : State} {f : AddBookingFields} (hf : AddAccepted f) (hfull : lowestFreeBooking s = none) :
    takeAddBooking s f = refuse s .tableFull := by
  simp only [takeAddBooking, checkAdd_ok hf, hfull]

/-- ADD_BOOKING with accepted values and a free slot, by uniqueness and time (R11). -/
theorem takeAddBooking_free {s : State} {f : AddBookingFields} {slot : Nat} (hf : AddAccepted f)
    (hslot : lowestFreeBooking s = some slot) :
    takeAddBooking s f =
      if duplicates s none (clampedAdd f).primary (clampedAdd f).alternative then refuse s .duplicate
      else if reached s (latestCoreEnd (clampedAdd f).primary (clampedAdd f).alternative) then refuse s .tooLate
      else
        accept (settle (markStale (occupyBooking s slot (manualBooking (clampedAdd f))))) (clampedAdd f != f)
          (handleBytes ⟨slot, nextBookingTag s slot⟩) := by
  simp only [takeAddBooking, checkAdd_ok hf, hslot]

theorem reached_iff (s : State) (n : Nat) : reached s n = true ↔ s.clock.valid = true ∧ n ≤ s.clock.seconds := by
  simp [reached]

theorem reached_eq_false (s : State) {n : Nat} (h : s.clock.valid = true → s.clock.seconds < n) : reached s n = false := by
  rw [Bool.eq_false_iff, Ne, reached_iff]
  rintro ⟨hvalid, hle⟩
  exact absurd (h hvalid) (Nat.not_lt.mpr hle)

/-- Settles O10: no check of ADD_BOOKING fails, and the lowest free slot is occupied. -/
theorem addBookingCreatesTheRecord : Obligations.AddBookingCreatesTheRecord := by
  intro s f d slot ht hf hslot hfree hbelow hnew hahead
  have hlowest : lowestFreeBooking s = some slot := (lowestFreeBooking_eq_some s slot).mpr ⟨hslot, hfree, hbelow⟩
  have hunique : ¬ duplicates s none (clampedAdd f).primary (clampedAdd f).alternative = true :=
    fun hd => hnew ((duplicates_iff s none _ _).mp hd)
  have htake : takeAddBooking s f =
      accept (settle (markStale (occupyBooking s slot (manualBooking (clampedAdd f))))) (clampedAdd f != f)
        (handleBytes ⟨slot, nextBookingTag s slot⟩) := by
    rw [takeAddBooking_free hf hlowest, if_neg hunique, reached_eq_false s hahead]
    rfl
  rw [exec_addBooking ht, htake, bne_eq_decide_ne]
  exact completed_accept_settled (s := s) (.addBooking f) d _ _ rfl

/-! ### The refusals of ADD_BOOKING and AMEND_BOOKING (O11) -/

/-- AMEND_BOOKING with accepted values of the booking its handle names, by the state (R13). -/
theorem takeAmendBooking_named {s : State} {h : Handle} {f : AmendBookingFields} {b : Booking} (hf : AmendAccepted f)
    (hn : NamesBooking s h b) :
    takeAmendBooking s h f =
      if b.state = .scheduled then
        if duplicates s (some h.slot) (clampedAmend .primary f).primary (clampedAmend .primary f).alternative then
          refuse s .duplicate
        else accept (settle (amendScheduled s h b (clampedAmend .primary f))) (clampedAmend .primary f != f) []
      else if b.state.isRunning then
        if runningAmendAllowed b (clampedAmend (usedOf b) f) then
          accept (settle (amendRunning s h b (clampedAmend (usedOf b) f))) (clampedAmend (usedOf b) f != f) []
        else refuse s .wrongState
      else refuse s .wrongState := by
  simp only [takeAmendBooking, checkAmend_ok hf, namesBooking_check hn, ← clampedAmend_eq]
  rfl

/-- A refusal, whatever was found, leaves everything but the port alone. -/
theorem refused_of_answered {s : State} {x : State × Answer} (r : Request) (d : Bool) (hx : Answered s x) :
    ∃ t, completed r d x = .next t ∧
      (x.2.code ≠ .ok → x.2.code ≠ .adjusted → t = { s with port := t.port } ∧ Replied s t (kindOf r) d x.2.code []) := by
  obtain ⟨hport, -, hrefused⟩ := hx
  refine ⟨_, rfl, fun hok hadjusted => ?_⟩
  obtain ⟨hempty, hsame⟩ := hrefused hok hadjusted
  have hreply := completeRequest_replied r d x.2 hport
  rw [hempty] at hreply
  exact ⟨by simp only [completeRequest, hsame], hreply⟩

theorem lowestFreeBooking_of_free {s : State} (h : ∃ sl ∈ s.bookings, sl.booking = none) :
    ∃ slot, lowestFreeBooking s = some slot := by
  rw [← Option.ne_none_iff_exists', Ne, lowestFreeBooking_eq_none]
  intro hall
  obtain ⟨sl, hsl, hnone⟩ := h
  simpa [hnone] using hall sl hsl

theorem addBooking_refusals {s : State} {f : AddBookingFields} {d : Bool} (ht : Taking s (.addBooking f) d) :
    ∃ t code, exec .addBooking s = .next t ∧
      (¬ AddAccepted f → code = .badValue) ∧
      (AddAccepted f → (∀ sl ∈ s.bookings, sl.booking.isSome = true) → code = .tableFull) ∧
      (AddAccepted f → (∃ sl ∈ s.bookings, sl.booking = none) →
        DuplicateShowings s none (clampedAdd f).primary (clampedAdd f).alternative → code = .duplicate) ∧
      (AddAccepted f → (∃ sl ∈ s.bookings, sl.booking = none) →
        ¬ DuplicateShowings s none (clampedAdd f).primary (clampedAdd f).alternative → s.clock.valid = true →
        latestCoreEnd (clampedAdd f).primary (clampedAdd f).alternative ≤ s.clock.seconds → code = .tooLate) ∧
      (code ≠ .ok → code ≠ .adjusted → t = { s with port := t.port } ∧ Replied s t 0x10#8 d code []) := by
  obtain ⟨t, hnext, hrefused⟩ := refused_of_answered (.addBooking f) d (takeAddBooking_answered s f)
  refine ⟨t, (takeAddBooking s f).2.code, (exec_addBooking ht).trans hnext, ?values, ?capacity, ?uniqueness, ?time, hrefused⟩
  case values =>
    intro hf
    simp only [takeAddBooking, checkAdd_bad hf]
    rfl
  case capacity =>
    intro hf hfull
    rw [takeAddBooking_full hf ((lowestFreeBooking_eq_none s).mpr hfull)]
    rfl
  case uniqueness =>
    intro hf hfree hdup
    obtain ⟨slot, hslot⟩ := lowestFreeBooking_of_free hfree
    rw [takeAddBooking_free hf hslot, if_pos ((duplicates_iff s none _ _).mpr hdup)]
    rfl
  case time =>
    intro hf hfree hnew hvalid hpast
    obtain ⟨slot, hslot⟩ := lowestFreeBooking_of_free hfree
    rw [takeAddBooking_free hf hslot, if_neg (fun hd => hnew ((duplicates_iff s none _ _).mp hd)),
      if_pos ((reached_iff s _).mpr ⟨hvalid, hpast⟩)]
    rfl

theorem amendBooking_refusals {s : State} {h : Handle} {f : AmendBookingFields} {d : Bool} {b : Booking}
    (ht : Taking s (.amendBooking h f) d) (hf : AmendAccepted f) (hn : NamesBooking s h b) :
    (b.state = .scheduled →
      DuplicateShowings s (some h.slot) (clampedAmend .primary f).primary (clampedAmend .primary f).alternative →
      RefusedWith s (.amendBooking h f) d .duplicate) ∧
    (∀ r v, b.state.isRunning = true → b.running = some r → showingNamed b r.used = some v →
      (∀ w, ¬ RunningAmend b r.used v w (clampedAmend r.used f)) → RefusedWith s (.amendBooking h f) d .wrongState) ∧
    (b.state.isFinished = true → RefusedWith s (.amendBooking h f) d .wrongState) := by
  have hexec : exec (completionOf (.amendBooking h f)) s = _ := exec_amendBooking ht
  refine ⟨fun hst hdup => ?_, fun r v hrun hr hv hnot => ?_, fun hfin => ?_⟩
  · refine refusedWith_of hexec ?_
    rw [takeAmendBooking_named hf hn, if_pos hst, if_pos ((duplicates_iff s _ _ _).mpr hdup)]
  · refine refusedWith_of hexec ?_
    have hst : b.state ≠ .scheduled := fun hst => by rw [hst] at hrun; cases hrun
    have hbad : ¬ runningAmendAllowed b (clampedAmend r.used f) = true := fun hall => by
      obtain ⟨w, hw⟩ := (runningAmendAllowed_iff hr hv _).mp hall
      exact hnot w hw
    rw [takeAmendBooking_named hf hn, if_neg hst, if_pos hrun, usedOf_running hr, if_neg hbad]
  · refine refusedWith_of hexec ?_
    have hst : b.state ≠ .scheduled ∧ ¬ b.state.isRunning = true := by
      cases hb : b.state <;> simp_all [BookingState.isFinished, BookingState.isRunning]
    rw [takeAmendBooking_named hf hn, if_neg hst.1, if_neg hst.2]

/-- Settles O11: each refusal by the first check that fails. -/
theorem bookingFieldsAreRefusedInOrder : Obligations.BookingFieldsAreRefusedInOrder := by
  refine ⟨fun s f d ht => addBooking_refusals ht, fun s h f d ht => ⟨fun hf => ?values, fun hf => ⟨fun c hc => ?handle, ?state⟩⟩⟩
  case values =>
    refine refusedWith_of (r := .amendBooking h f) (exec_amendBooking ht) ?_
    simp only [takeAmendBooking, checkAmend_bad hf]
  case handle =>
    refine refusedWith_of (r := .amendBooking h f) (exec_amendBooking ht) ?_
    simp only [takeAmendBooking, checkAmend_ok hf, check_refused hc]
  case state => exact fun b hn => amendBooking_refusals ht hf hn

/-! ### The amend of a SCHEDULED booking (O13) -/

/-- The record that an amend leaves of a SCHEDULED booking (R6, R10, R14). -/
def amendedScheduled (s : State) (h : Handle) (b : Booking) (c : AmendBookingFields) : Booking :=
  { b with
    primary := c.primary, alternative := c.alternative, prePad := c.prePad, postPad := c.postPad,
    priority := c.priority, follow := c.follow
    version :=
      if c.primary = b.primary ∧ c.alternative = b.alternative ∧ c.prePad = b.prePad ∧ c.postPad = b.postPad ∧
          c.priority = b.priority then b.version
      else raisedVersion s h b
    runningStatus :=
      if c.primary.channel = b.primary.channel ∧ c.primary.event = b.primary.event then b.runningStatus else .unknown }

theorem amendScheduled_eq (s : State) (h : Handle) (b : Booking) (c : AmendBookingFields) :
    amendScheduled s h b c =
      markStaleIf (relevantChange b c || b.follow != c.follow) (updateBooking s h.slot fun _ => amendedScheduled s h b c) := by
  simp only [amendScheduled, amended, amendedScheduled, relevant_iff, ite_not, eq_comm (a := b.primary.channel),
    eq_comm (a := b.primary.event)]

/-- The amend changes the record exactly when a stored field differs (R14). -/
theorem amendedScheduled_ne_iff (s : State) (h : Handle) (b : Booking) (c : AmendBookingFields) :
    amendedScheduled s h b c ≠ b ↔ (relevantChange b c || b.follow != c.follow) = true := by
  rw [Bool.or_eq_true, relevant_iff, bne_iff_ne, ← not_iff_not, not_or, not_not, not_not, Ne, not_not]
  constructor
  · intro hsame
    have hfields := congrArg (fun x : Booking => (x.primary, x.alternative, x.prePad, x.postPad, x.priority, x.follow)) hsame
    simp only [amendedScheduled, Prod.mk.injEq] at hfields
    obtain ⟨h1, h2, h3, h4, h5, h6⟩ := hfields
    exact ⟨⟨h1, h2, h3, h4, h5⟩, h6.symm⟩
  · rintro ⟨⟨h1, h2, h3, h4, h5⟩, h6⟩
    simp only [amendedScheduled, h1, h2, h3, h4, h5, ← h6, and_self, if_true]

theorem bookingOf_of_holds {s t : State} {h : Handle} {b c : Booking} (hn : NamesBooking s h b)
    (ht : HoldsBooking s t h.slot c) : bookingOf t h = some c := by
  have hslot : t.bookings[h.slot]? = some ⟨h.tag, some c⟩ := by rw [← namesBooking_tag hn]; exact ht
  simp only [bookingOf, tagAt_of_slot hslot, if_true, bookingAt, hslot, Option.bind_some]

/-- Settles O13: the amended record in the handle's slot, and the stale flag by whether it differs. -/
theorem amendOfScheduledStoresTheFields : Obligations.AmendOfScheduledStoresTheFields := by
  intro s h f d b ht hf hn hst hnew
  have hunique : ¬ duplicates s (some h.slot) (clampedAmend .primary f).primary (clampedAmend .primary f).alternative = true :=
    fun hd => hnew ((duplicates_iff s _ _ _).mp hd)
  have htake : takeAmendBooking s h f =
      accept (settle (amendScheduled s h b (clampedAmend .primary f))) (clampedAmend .primary f != f) [] := by
    rw [takeAmendBooking_named hf hn, if_pos hst, if_neg hunique]
  have hframe := (amendScheduled_eq s h b (clampedAmend .primary f)).trans (markStaleIf_eq _ _)
  obtain ⟨t, hnext, hstate, hsettled, hreply⟩ :=
    completed_accept_settled (s := s) (x := amendScheduled s h b (clampedAmend .primary f)) (.amendBooking h f) d
      (clampedAmend .primary f != f) [] (by rw [hframe, updateBooking_port])
  obtain ⟨hothers, hrecord⟩ := slots_of_updateBooking (t := t) (f := fun _ => amendedScheduled s h b (clampedAmend .primary f))
    hn (by rw [hstate, hframe])
  refine ⟨t, _, (exec_amendBooking ht).trans (htake ▸ hnext), rfl, ?frame, hothers, hrecord, ?stale, hsettled,
    bne_eq_decide_ne (clampedAmend .primary f) f ▸ hreply⟩
  case frame => rw [hstate, hframe]; rfl
  case stale =>
    have hchanged : decide (bookingOf t h ≠ some b) =
        (relevantChange b (clampedAmend .primary f) || b.follow != (clampedAmend .primary f).follow) := by
      rw [bookingOf_of_holds hn hrecord, Bool.eq_iff_iff, decide_eq_true_iff, ← amendedScheduled_ne_iff s h]
      exact not_congr Option.some_inj
    rw [hchanged, hstate, hframe]
    rfl

/-! ### WITHDRAW (O16) -/

theorem freeBooking_agree (s : State) (i : Nat) : SlotsAgreeBut i s (freeBooking s i) := fun j hj => by
  rw [freeBooking_slot, if_neg (Ne.symm hj)]

theorem freeBooking_named_slot {s : State} {h : Handle} {b : Booking} (hn : NamesBooking s h b) :
    (freeBooking s h.slot).bookings[h.slot]? = some ⟨tagAt s h.slot, none⟩ := by
  rw [freeBooking_slot, if_pos rfl, namesBooking_slot hn, namesBooking_tag hn]
  rfl

/-- A booking whose slot is freed, and what becomes of the stale flag (R17). -/
theorem completed_freed {s : State} {h : Handle} {b : Booking} (hn : NamesBooking s h b) (stale : Bool) (r : Request)
    (d : Bool) :
    ∃ t, completed r d (accept (settle (markStaleIf stale (freeBooking s h.slot))) false []) = .next t ∧
      t = { s with bookings := t.bookings, planner := t.planner, port := t.port, out := t.out } ∧
      SlotsAgreeBut h.slot s t ∧ OutputsSettled t ∧ Replied s t (kindOf r) d .ok [] ∧
      t.bookings[h.slot]? = some ⟨tagAt s h.slot, none⟩ ∧
      t.planner = { s.planner with stale := s.planner.stale || stale } := by
  have hframe := markStaleIf_eq stale (freeBooking s h.slot)
  obtain ⟨t, hnext, hstate, hsettled, hreply⟩ :=
    completed_settled (s := s) (x := markStaleIf stale (freeBooking s h.slot)) r d (by rw [hframe]; rfl)
  have hbookings : t.bookings = (freeBooking s h.slot).bookings := by rw [hstate, hframe]
  refine ⟨t, hnext, ?_, slotsAgreeBut_of_eq (freeBooking_agree s h.slot) hbookings, hsettled, hreply,
    hbookings ▸ freeBooking_named_slot hn, ?_⟩
  · rw [hstate, hframe]; rfl
  · rw [hstate, hframe]; rfl

/-- WITHDRAW of the booking its handle names, by its state (R16). -/
theorem takeWithdraw_named {s : State} {h : Handle} {b : Booking} (hn : NamesBooking s h b) :
    takeWithdraw s h =
      accept
        (settle (if b.state.isRunning then finishBooking s h b .aborted (some .withdrawn)
          else markStaleIf (!b.state.isFinished) (freeBooking s h.slot))) false [] := by
  simp only [takeWithdraw, namesBooking_check hn]
  cases b.state <;> rfl

/-- Settles O16: a running booking is finished, and any other freed. -/
theorem withdrawFreesOrAborts : Obligations.WithdrawFreesOrAborts := by
  refine ⟨fun s h d c ht hc => ?refused, fun s h d b ht hn => ?carriedOut⟩
  case refused =>
    exact refusedWith_of (r := .withdraw h) (exec_withdraw ht) (by simp only [takeWithdraw, check_refused hc])
  case carriedOut =>
    rw [exec_withdraw ht, takeWithdraw_named hn]
    by_cases hrun : b.state.isRunning = true
    · rw [if_pos hrun]
      obtain ⟨t, hnext, hstate, hlinks, hothers, hrecord, hsettled, hreply⟩ :=
        completed_finishBooking hn .aborted (some .withdrawn) (.withdraw h) d
      have hfin : b.state.isFinished = false := by
        rcases (isRunning_iff b.state).mp hrun with hst | hst <;> rw [hst] <;> rfl
      refine ⟨t, hnext, ?_, hothers, hsettled, hreply, fun h => absurd hrun (by simp [h]), fun _ => hrecord, ?_⟩
      · rw [finishBooking_aborted_links] at hlinks
        rw [hstate, hlinks]
      · rw [hstate, hfin]; simp
    · rw [if_neg hrun]
      obtain ⟨t, hnext, hframe, hothers, hsettled, hreply, hfreed, hplanner⟩ :=
        completed_freed hn (!b.state.isFinished) (.withdraw h) d
      exact ⟨t, hnext, hframe, hothers, hsettled, hreply, fun _ => hfreed, fun h => absurd h hrun, hplanner⟩

end Sys2Proof.Machine
end

section
/-! PROOF. The end move (O15) and the two commands that share it: the amend of a running booking (O14), and the announcement
of its showing in use (O29). -/

namespace Sys2Proof.Machine

/-! ### Tables changed in one slot -/

theorem slotsAgree_trans {i : Nat} {s t u : State} (h1 : SlotsAgreeBut i s t) (h2 : SlotsAgreeBut i t u) : SlotsAgreeBut i s u :=
  fun j hj => (h2 j hj).trans (h1 j hj)

theorem holds_of_bookingAt {s : State} {i : Nat} {b : Booking} (h : bookingAt s i = some b) : HoldsBooking s s i b :=
  (bookingAt_eq_some s i b).mp h

/-- A record written over the one just written: the slot holds the last, under the tag it had. -/
theorem holds_rewritten {s x t : State} {i : Nat} {b c : Booking} {f : Booking → Booking} (hb : bookingAt s i = some b)
    (hx : x = updateBooking s i fun _ => c) (ht : t.bookings = (updateBooking x i f).bookings) : HoldsBooking s t i (f c) := by
  subst hx
  have hrecord := updateBooking_record f (bookingAt_update c hb)
  unfold HoldsBooking at hrecord ⊢
  rw [ht, hrecord, tagAt_update]

theorem finishBooking_agree (s : State) (h : Handle) (b : Booking) (st : BookingState) (reason : Option FinishReason) :
    SlotsAgreeBut h.slot s (finishBooking s h b st reason) :=
  slotsAgreeBut_of_eq (updateBooking_agree s h.slot _) (finishBooking_bookings s h b st reason)

theorem finishBooking_planner (s : State) (h : Handle) (b : Booking) (st : BookingState) (reason : Option FinishReason) :
    (finishBooking s h b st reason).planner = { s.planner with stale := true } := by
  rw [finishBooking_frame]

theorem closeBooking_agree (s : State) (h : Handle) (b : Booking) : SlotsAgreeBut h.slot s (closeBooking s h b) := by
  unfold closeBooking
  split
  · exact finishBooking_agree s h b _ _
  · split
    · exact updateBooking_agree s h.slot _
    · exact finishBooking_agree s h b _ _
  · exact finishBooking_agree s h b _ _
  all_goals exact fun _ _ => rfl

theorem moveEnd_agree (s : State) (h : Handle) (b : Booking) (newPost : Option Nat) :
    SlotsAgreeBut h.slot s (moveEnd s h b newPost) := by
  by_cases hidle : b.running = none ∨ b.closeReached = true
  · rw [moveEnd_idle newPost hidle]
    exact fun _ _ => rfl
  · obtain ⟨hsome, hc⟩ := not_or.mp hidle
    obtain ⟨r, hr⟩ := Option.ne_none_iff_exists'.mp hsome
    rw [moveEnd_running newPost hr (Bool.eq_false_iff.mpr hc) rfl]
    split
    · exact slotsAgree_trans (updateBooking_agree s h.slot _) (closeBooking_agree _ h _)
    · rw [markStaleIf_eq]
      exact updateBooking_agree s h.slot _

/-! ### The close of a running booking whose end was moved -/

section closed
variable {s x : State} {h : Handle} {b c : Booking}

theorem closeBooking_starting (hst : c.state = .starting) :
    closeBooking x h c = finishBooking x h c .failed (some .noConfirm) := by
  unfold closeBooking
  rw [hst]

theorem closeBooking_extends {r : RunningPlacement} (hst : c.state = .recording) (hr : c.running = some r)
    (hx : Extends x h.slot c r) : closeBooking x h c = markStale (updateBooking x h.slot (extended x r)) := by
  rw [closeBooking_recording x h c r hst hr, if_pos ((extensionGranted_iff x h.slot c r).mpr hx)]

theorem closeBooking_completes {r : RunningPlacement} (hst : c.state = .recording) (hr : c.running = some r)
    (hx : ¬ Extends x h.slot c r) : closeBooking x h c = finishBooking x h c .completed none := by
  rw [closeBooking_recording x h c r hst hr, if_neg fun hg => hx ((extensionGranted_iff x h.slot c r).mp hg)]

end closed

/-- An end move, case by case (R147, R148): the close event due, the close point ahead, and the close point reached by a
STARTING and by a RECORDING booking. -/
theorem moveEnd_endMoved {s : State} {h : Handle} {b : Booking} {r : RunningPlacement} (newPost : Option Nat) {w : Showing}
    (hb : bookingAt s h.slot = some b) (hr : b.running = some r) (hw : showingNamed b r.used = some w) :
    EndMoved s (moveEnd s h b newPost) h.slot b r w (newPost.getD r.postAllowance) := by
  intro close later r1 hclose hlater hr1
  have hpoint : closePointOf b { r with postAllowance := newPost.getD r.postAllowance } = close := by
    rw [closePointOf_eq (r := { r with postAllowance := newPost.getD r.postAllowance }) hw, hclose]
  obtain ⟨c, hcdef⟩ : ∃ c, c = { b with running := some r1, closeReached := reached s close } := ⟨_, rfl⟩
  have hmoved (hc : b.closeReached = false) : moveEnd s h b newPost =
      if reached s close then closeBooking (updateBooking s h.slot fun _ => c) h c
      else markStaleIf (close != r.closePoint) (updateBooking s h.slot fun _ => c) := by
    rw [moveEnd_running newPost hr hc rfl, retimed_running newPost hr hc rfl, hpoint, hcdef, hr1]
  have hrun : c.running = some r1 := by rw [hcdef]
  have hstate : c.state = b.state := by rw [hcdef]
  refine ⟨fun hdue => ?due, fun hc hahead => ?ahead, fun hc hreached hst => ?starting, fun hc hreached hst => ?recording⟩
  case due =>
    rw [moveEnd_idle newPost (Or.inr hdue)]
    exact ⟨holds_of_bookingAt hb, rfl, rfl⟩
  case ahead =>
    rw [hmoved hc, if_neg (by rw [hahead]; exact Bool.false_ne_true), markStaleIf_eq, hcdef, hahead, ← hc,
      bne_eq_decide_ne]
    exact ⟨updateBooking_record _ hb, rfl, rfl⟩
  case starting =>
    rw [hmoved hc, if_pos hreached, closeBooking_starting (hstate.trans hst)]
    refine ⟨?_, finishBooking_planner _ h _ _ _, ?_⟩
    · have hrecord := holds_rewritten (f := finished s .failed (some .noConfirm)) hb rfl
        (finishBooking_bookings (updateBooking s h.slot fun _ => c) h c .failed (some .noConfirm))
      rw [hcdef] at hrecord ⊢
      exact hrecord
    · rw [hcdef]
      exact finish_history (Or.inl rfl)
  case recording =>
    rw [hmoved hc, if_pos hreached]
    have hsame : Extends (updateBooking s h.slot fun _ => c) h.slot c r1 ↔ Extends s h.slot b r := by
      rw [extends_update, hcdef, hr1]
      rfl
    by_cases hx : Extends s h.slot b r
    · rw [closeBooking_extends (hstate.trans hst) hrun (hsame.mpr hx)]
      refine ⟨rfl, rfl, fun _ => ?_, fun hnot => absurd hx hnot⟩
      have hlast : closePointOf { b with extensionUsed := b.extensionUsed + 300 } r1 = later := by
        rw [hlater, hr1]
        exact closePointOf_eq hw
      have hrecord := holds_rewritten (c := c) (f := extended s r1) (t := updateBooking _ h.slot (extended s r1)) hb rfl rfl
      rw [hcdef] at hrecord ⊢
      exact hlast ▸ hrecord
    · rw [closeBooking_completes (hstate.trans hst) hrun fun hg => hx (hsame.mp hg)]
      refine ⟨finishBooking_planner _ h _ _ _, rfl, fun hg => absurd hg hx, fun _ => ?_⟩
      have hrecord := holds_rewritten (f := finished s .completed none) hb rfl
        (finishBooking_bookings (updateBooking s h.slot fun _ => c) h c .completed none)
      rw [hcdef] at hrecord ⊢
      exact hrecord

/-- Settles O15: by the cases of the end move. -/
theorem endMoveClosesAtOnce : Obligations.EndMoveClosesAtOnce :=
  fun s h b _r newPost _w hb _ hr hw => ⟨moveEnd_agree s h b newPost, moveEnd_endMoved newPost hb hr hw⟩

/-! ### The amend of a running booking (O14) -/

/-- A record is written, and its end moved where the new fields change it: what an amend (R15) and an announcement (R70) do
to a running booking. -/
def rewritten (s : State) (h : Handle) (b1 : Booking) (changed : Bool) (newPost : Option Nat) : State :=
  if changed then moveEnd (updateBooking s h.slot fun _ => b1) h b1 newPost else updateBooking s h.slot fun _ => b1

theorem rewritten_frame (s : State) (h : Handle) (b1 : Booking) (changed : Bool) (newPost : Option Nat) :
    rewritten s h b1 changed newPost =
      { s with bookings := (rewritten s h b1 changed newPost).bookings
               links := (rewritten s h b1 changed newPost).links
               planner := (rewritten s h b1 changed newPost).planner } := by
  unfold rewritten
  split
  · rw [moveEnd_frame]; rfl
  · rfl

theorem rewritten_agree (s : State) (h : Handle) (b1 : Booking) (changed : Bool) (newPost : Option Nat) :
    SlotsAgreeBut h.slot s (rewritten s h b1 changed newPost) := by
  unfold rewritten
  split
  · exact slotsAgree_trans (updateBooking_agree s h.slot _) (moveEnd_agree _ h b1 newPost)
  · exact updateBooking_agree s h.slot _

theorem rewritten_stays {s : State} {h : Handle} {b b1 : Booking} {changed : Bool} (newPost : Option Nat)
    (hb : bookingAt s h.slot = some b) (hsame : changed = false) :
    HoldsBooking s (rewritten s h b1 changed newPost) h.slot b1 ∧
      (rewritten s h b1 changed newPost).planner = s.planner ∧ (rewritten s h b1 changed newPost).links = s.links := by
  subst hsame
  exact ⟨updateBooking_record _ hb, rfl, rfl⟩

theorem rewritten_moved {s : State} {h : Handle} {b b1 : Booking} {r : RunningPlacement} {w : Showing} {changed : Bool}
    (newPost : Option Nat) (hb : bookingAt s h.slot = some b) (hr : b1.running = some r)
    (hw : showingNamed b1 r.used = some w) (hchanged : changed = true) :
    EndMoved s (rewritten s h b1 changed newPost) h.slot b1 r w (newPost.getD r.postAllowance) := by
  subst hchanged
  exact endMoved_before (moveEnd_endMoved newPost (bookingAt_update b1 hb) hr hw)

/-- An amend that R15 allows changes a placement-relevant field exactly when the duration of the showing in use, the post-pad
or the priority changed. -/
theorem relevantChange_running {b : Booking} {used : ShowingUsed} {v w : Showing} {c : AmendBookingFields}
    (hv : showingNamed b used = some v) (hc : RunningAmend b used v w c) :
    relevantChange b c = true ↔ ¬ (w = v ∧ c.postPad = b.postPad ∧ c.priority = b.priority) := by
  obtain ⟨hpre, -, hshown⟩ := hc
  rw [relevant_iff, not_iff_not]
  cases used with
  | primary =>
    obtain ⟨hprimary, halternative⟩ := hshown
    have hb : b.primary = v := Option.some.inj hv
    simp [hprimary, halternative, hpre, hb]
  | alternative =>
    obtain ⟨hprimary, halternative⟩ := hshown
    have hb : b.alternative = some v := hv
    simp [hprimary, halternative, hpre, hb]

/-- The showing in use, as an amend that R15 allows leaves it. -/
theorem amendShowing_running {b : Booking} {used : ShowingUsed} {v w : Showing} {c : AmendBookingFields}
    (hc : RunningAmend b used v w c) : amendShowing c used = some w := by
  obtain ⟨-, -, hshown⟩ := hc
  cases used with
  | primary => exact congrArg some hshown.1
  | alternative => exact hshown.2

theorem showingNamed_amended (s : State) (h : Handle) (b : Booking) (c : AmendBookingFields) (used : ShowingUsed) :
    showingNamed (amended s h b c) used = amendShowing c used := by
  cases used <;> rfl

/-- The amend of a running booking, by whether the showing in use or the post-pad changed (R15, R147). -/
theorem amendRunning_eq {s : State} {h : Handle} {b : Booking} {r : RunningPlacement} {v w : Showing} {c : AmendBookingFields}
    (hr : b.running = some r) (hv : showingNamed b r.used = some v) (hc : RunningAmend b r.used v w c) :
    amendRunning s h b c =
      rewritten s h (amended s h b c) (decide (w ≠ v ∨ c.postPad ≠ b.postPad))
        (if c.postPad = b.postPad then none else some c.postPad) := by
  have hcond : (showingNamed b (usedOf b) != amendShowing c (usedOf b) || b.postPad != c.postPad) =
      decide (w ≠ v ∨ c.postPad ≠ b.postPad) := by
    rw [Bool.eq_iff_iff]
    simp [usedOf_running hr, hv, amendShowing_running hc, eq_comm (a := v), eq_comm (a := b.postPad)]
  have hpost : (if b.postPad != c.postPad then some c.postPad else none) =
      if c.postPad = b.postPad then none else some c.postPad := by
    by_cases hsame : c.postPad = b.postPad
    · simp [hsame]
    · simp [hsame, Ne.symm hsame]
  simp only [amendRunning, hcond, hpost, rewritten]

/-- Settles O14: the record is written first, and its end moved by it where the showing in use or the post-pad changed. -/
theorem amendOfRunningMovesTheEnd : Obligations.AmendOfRunningMovesTheEnd := by
  intro s h f d b r v w c ht hf hn hrun hr hv hcdef hc
  have hb := namesBooking_at hn
  have hst : b.state ≠ .scheduled := fun hst => by rw [hst] at hrun; cases hrun
  have htake : takeAmendBooking s h f = accept (settle (amendRunning s h b c)) (c != f) [] := by
    rw [takeAmendBooking_named hf hn, if_neg hst, if_pos hrun, usedOf_running hr, ← hcdef,
      if_pos ((runningAmendAllowed_iff hr hv c).mpr ⟨w, hc⟩)]
  obtain ⟨t, hnext, hstate, hsettled, hreply⟩ :=
    completed_accept_settled (s := s) (x := amendRunning s h b c) (.amendBooking h f) d (c != f) [] (amendRunning_port s h b c)
  have hrecord : amended s h b c =
      { b with
        primary := c.primary, alternative := c.alternative, postPad := c.postPad, priority := c.priority, follow := c.follow
        version := if w = v ∧ c.postPad = b.postPad ∧ c.priority = b.priority then b.version else raisedVersion s h b } := by
    simp only [amended, relevantChange_running hv hc, ite_not, hc.1]
  rw [bne_eq_decide_ne] at hreply
  rw [amendRunning_eq hr hv hc] at hstate
  refine ⟨t, amended s h b c, (exec_amendBooking ht).trans (htake ▸ hnext), hrecord, ?frame,
    slotsAgreeBut_of_eq (rewritten_agree s h _ _ _) (by rw [hstate]), hsettled, hreply,
    fun hsame hpost => ?stays, fun hchanged => ?moved⟩
  case frame => rw [hstate, rewritten_frame]
  case stays =>
    rw [hstate]
    exact rewritten_stays _ hb (by simp [hsame, hpost])
  case moved =>
    have hmoved := rewritten_moved (b1 := amended s h b c) (if c.postPad = b.postPad then none else some c.postPad) hb hr
      ((showingNamed_amended s h b c r.used).trans (amendShowing_running hc)) (decide_eq_true hchanged)
    have hpost : (if c.postPad = b.postPad then none else some c.postPad).getD r.postAllowance =
        if c.postPad = b.postPad then r.postAllowance else c.postPad := by
      split <;> rfl
    rw [hpost] at hmoved
    exact endMoved_of_eq hmoved (by rw [hstate]) (by rw [hstate]) (by rw [hstate])

end Sys2Proof.Machine
end

section
/-! PROOF. The Series Matcher: the head announcement, by whether its pair is in a booking (O28, O29), whether a link takes it
(O30), and what the link does with it (O31, O32). -/

namespace Sys2Proof.Machine

/-! ### The head announcement -/

theorem exec_matcherEvent {s : State} {a : Announcement} {rest : List Announcement} (hq : s.queue = a :: rest) :
    exec .matcherEvent s = .next (settle (applyAnnouncement { s with queue := rest } a)) := by
  simp only [exec, execMatcherEvent, hq]

/-- Step 1: the showing that carries the announced pair (R68). -/
theorem exec_matcherEvent_known {s : State} {a : Announcement} {rest : List Announcement} {i : Nat} {b : Booking}
    {u : ShowingUsed} (hq : s.queue = a :: rest) (hunique : PairsUnique s) (hb : bookingAt s i = some b)
    (hp : pairNamed b u = some (a.channel, a.event)) :
    exec .matcherEvent s = .next (settle (announceKnown { s with queue := rest } ⟨i, tagAt s i⟩ b u a)) := by
  have hocc : ((⟨i, tagAt s i⟩ : Handle), b) ∈ occupied s := (mem_occupied s _ b).mpr ((bookingAt_eq_some s i b).mp hb)
  have hfound : findPair { s with queue := rest } (a.channel, a.event) = some (⟨i, tagAt s i⟩, b, u) :=
    findPair_spec s _ hunique _ hocc u hp
  rw [exec_matcherEvent hq, applyAnnouncement, hfound]

/-- Step 2: no booking carries the announced pair (R73). -/
theorem exec_matcherEvent_unknown {s : State} {a : Announcement} {rest : List Announcement} (hq : s.queue = a :: rest)
    (hp : ¬ PairStands s none (some (a.channel, a.event))) :
    exec .matcherEvent s = .next (settle (announceUnknown { s with queue := rest } a)) := by
  have hnone : findPair { s with queue := rest } (a.channel, a.event) = none := findPair_none s _ hp
  rw [exec_matcherEvent hq, applyAnnouncement, hnone]

/-! ### Step 1 on a SCHEDULED booking (O28) -/

/-- The showing named, after a change of one showing. -/
theorem showingNamed_withShowing {b : Booking} {u : ShowingUsed} {v : Showing} (g : Showing → Showing)
    (hv : showingNamed b u = some v) : showingNamed (withShowing b u g) u = some (g v) := by
  cases u with
  | primary =>
    have hb : b.primary = v := Option.some.inj hv
    simp only [withShowing, showingNamed, hb]
  | alternative =>
    have hb : b.alternative = some v := hv
    simp only [withShowing, showingNamed, hb, Option.map_some]

theorem showingNamed_bne {b : Booking} {u : ShowingUsed} {v : Showing} (g : Showing → Showing)
    (hv : showingNamed b u = some v) :
    (showingNamed (withShowing b u g) u != showingNamed b u) = decide (g v ≠ v) := by
  rw [showingNamed_withShowing g hv, hv, Bool.eq_iff_iff, bne_iff_ne, decide_eq_true_iff]
  exact not_congr Option.some_inj

/-- Settles O28: the record by the showing that matched. -/
theorem matcherMovesAScheduledShowing : Obligations.MatcherMovesAScheduledShowing := by
  intro s a rest i b u v hq hunique hb hst hv hp
  have hchanged := showingNamed_bne (announcedTimes a) hv
  have hknown : announceKnown { s with queue := rest } ⟨i, tagAt s i⟩ b u a =
      markStaleIf (decide (announcedTimes a v ≠ v))
        (updateBooking { s with queue := rest } i fun _ =>
          { withShowing b u (announcedTimes a) with
            version := if announcedTimes a v = v then b.version else raisedVersion s ⟨i, tagAt s i⟩ b
            runningStatus := if u = .primary then a.status else b.runningStatus }) := by
    unfold announceKnown announceScheduled
    rw [hst]
    simp only [← announcedTimes.eq_def, hchanged, decide_eq_true_eq, ite_not]
    rfl
  obtain ⟨t, ht⟩ : ∃ t, t = settle (announceKnown { s with queue := rest } ⟨i, tagAt s i⟩ b u a) := ⟨_, rfl⟩
  have hexec := (exec_matcherEvent_known hq hunique hb hp).trans (congrArg _ ht.symm)
  rw [hknown, markStaleIf_eq] at ht
  have hframe : t = { s with queue := rest, bookings := t.bookings, planner := t.planner, out := t.out } := by rw [ht]; rfl
  have hothers : SlotsAgreeBut i s t := by
    rw [ht]
    exact updateBooking_agree { s with queue := rest } i _
  have hrecord : HoldsBooking s t i
      { withShowing b u (announcedTimes a) with
        version := if announcedTimes a v = v then b.version else raisedVersion s ⟨i, tagAt s i⟩ b
        runningStatus := if u = .primary then a.status else b.runningStatus } := by
    rw [ht]
    exact updateBooking_record (s := { s with queue := rest }) _ hb
  have hplanner : t.planner = { s.planner with stale := s.planner.stale || decide (announcedTimes a v ≠ v) } := by rw [ht]; rfl
  have hsettled : OutputsSettled t := by rw [ht]; exact settle_settled _
  cases u with
  | primary =>
    have hshown : b.primary = v := Option.some.inj hv
    simp only [withShowing, hshown] at hrecord
    exact ⟨t, _, _, hexec, rfl, rfl, hframe, hothers, hrecord, hplanner, hsettled⟩
  | alternative =>
    have hshown : b.alternative = some v := hv
    simp only [withShowing, hshown] at hrecord
    exact ⟨t, _, _, hexec, rfl, rfl, hframe, hothers, hrecord, hplanner, hsettled⟩

/-! ### Step 1 on a booking that is not SCHEDULED (O29) -/

/-- A finished booking, and a running one whose showing in use did not match, stay as they are (R70, R72). -/
theorem announceKnown_passes {s : State} {h : Handle} {b : Booking} {u : ShowingUsed} (a : Announcement)
    (hst : b.state ≠ .scheduled) (hb : b.state.isFinished = true ∨ ∃ r ∈ b.running.toList, r.used ≠ u) :
    announceKnown s h b u a = s := by
  have hunused : b.state.isRunning = true → usedOf b ≠ u := by
    intro hrun hused
    rcases hb with hfin | ⟨r, hr, hne⟩
    · cases hb : b.state <;> simp_all [BookingState.isFinished, BookingState.isRunning]
    · exact hne (usedOf_running (Option.mem_toList.mp hr) ▸ hused)
  unfold announceKnown
  split
  · next h => exact absurd h hst
  · next h => rw [if_neg (hunused (by rw [h]; rfl))]
  · next h => rw [if_neg (hunused (by rw [h]; rfl))]
  all_goals rfl

/-- A running booking whose showing in use matched (R70, R71). -/
theorem announceKnown_running {s : State} {h : Handle} {b : Booking} {r : RunningPlacement} (a : Announcement)
    (hrun : b.state.isRunning = true) (hr : b.running = some r) :
    announceKnown s h b r.used a = announceRunning s h b r.used a := by
  unfold announceKnown
  rcases (isRunning_iff b.state).mp hrun with hst | hst
  · simp only [hst, if_pos (usedOf_running hr)]
  · simp only [hst, if_pos (usedOf_running hr)]

/-- What an announcement leaves of a running booking whose showing in use matched, before its end moves (R70, R71). -/
theorem reshown_running {s : State} {h : Handle} {b : Booking} {u : ShowingUsed} {v : Showing} (a : Announcement)
    (hv : showingNamed b u = some v) :
    reshown s h b u (announcedDuration a) a.status =
      { withShowing b u (announcedDuration a) with
        runningStatus := a.status
        version := if announcedDuration a v = v then b.version else raisedVersion s h b } := by
  simp only [reshown, showingNamed_bne (announcedDuration a) hv, decide_eq_true_eq, ite_not]

theorem showingNamed_reshown {s : State} {h : Handle} {b : Booking} {u : ShowingUsed} {v : Showing} {g : Showing → Showing}
    (st : RunningStatus) (hv : showingNamed b u = some v) : showingNamed (reshown s h b u g st) u = some (g v) := by
  rw [← showingNamed_withShowing g hv]
  cases u <;> rfl

theorem exec_matcherEvent_running {s : State} {a : Announcement} {rest : List Announcement} {i : Nat} {b : Booking}
    {r : RunningPlacement} {v : Showing} (hq : s.queue = a :: rest) (hunique : PairsUnique s) (hb : bookingAt s i = some b)
    (hrun : b.state.isRunning = true) (hr : b.running = some r) (hv : showingNamed b r.used = some v)
    (hp : pairNamed b r.used = some (a.channel, a.event)) :
    exec .matcherEvent s =
      .next (settle (rewritten { s with queue := rest } ⟨i, tagAt s i⟩
        (reshown s ⟨i, tagAt s i⟩ b r.used (announcedDuration a) a.status) (decide (announcedDuration a v ≠ v)) none)) := by
  rw [exec_matcherEvent_known hq hunique hb hp, announceKnown_running a hrun hr, announceRunning_eq,
    showingNamed_bne (announcedDuration a) hv]
  rfl

/-- Settles O29: the showing in use takes the duration, and its end moves when that changed. -/
theorem matcherUpdatesARunningBooking : Obligations.MatcherUpdatesARunningBooking := by
  intro s a rest i b u v hq hunique hb hst hv hp
  refine ⟨fun hpass => ?passes, fun r hrun hr hu => ?runs⟩
  case passes =>
    have hexec := exec_matcherEvent_known hq hunique hb hp
    rw [announceKnown_passes a hst hpass] at hexec
    exact ⟨_, hexec, rfl, settle_settled _⟩
  case runs =>
    subst hu
    obtain ⟨b1, hb1⟩ : ∃ b1, b1 = reshown s ⟨i, tagAt s i⟩ b r.used (announcedDuration a) a.status := ⟨_, rfl⟩
    obtain ⟨y, hy⟩ : ∃ y, y = rewritten { s with queue := rest } ⟨i, tagAt s i⟩ b1 (decide (announcedDuration a v ≠ v)) none :=
      ⟨_, rfl⟩
    have hexec : exec .matcherEvent s = .next (settle y) := by
      rw [hy, hb1]
      exact exec_matcherEvent_running hq hunique hb hrun hr hv hp
    have hrun1 : b1.running = some r := by rw [hb1, reshown_frame, hr]
    have hshown : showingNamed b1 r.used = some (announcedDuration a v) := hb1 ▸ showingNamed_reshown a.status hv
    have hframe : settle y = { s with queue := rest, bookings := y.bookings, links := y.links, planner := y.planner,
                                      out := (settle y).out } := by
      rw [hy, rewritten_frame]
      rfl
    have hothers : SlotsAgreeBut i s (settle y) := hy ▸ rewritten_agree { s with queue := rest } ⟨i, tagAt s i⟩ b1 _ none
    have hstays (hsame : announcedDuration a v = v) :
        HoldsBooking s (settle y) i b1 ∧ y.planner = s.planner ∧ y.links = s.links :=
      hy ▸ rewritten_stays (s := { s with queue := rest }) (h := ⟨i, tagAt s i⟩) none hb (by simp [hsame])
    have hmoved (hne : announcedDuration a v ≠ v) :
        EndMoved s (settle y) i b1 r (announcedDuration a v) r.postAllowance :=
      hy ▸ rewritten_moved (s := { s with queue := rest }) (h := ⟨i, tagAt s i⟩) none hb hrun1 hshown (by simp [hne])
    rw [reshown_running a hv] at hb1
    generalize r.used = u at hv hb1
    cases u with
    | primary =>
      have hprimary : b.primary = v := Option.some.inj hv
      simp only [withShowing, hprimary] at hb1
      exact ⟨settle y, _, _, b1, hexec, rfl, rfl, hb1, hframe, hothers, settle_settled y, hstays, hmoved⟩
    | alternative =>
      have halternative : b.alternative = some v := hv
      simp only [withShowing, halternative] at hb1
      exact ⟨settle y, _, _, b1, hexec, rfl, rfl, hb1, hframe, hothers, settle_settled y, hstays, hmoved⟩

end Sys2Proof.Machine
end

section
/-! PROOF. The Series Matcher on an announcement whose pair is in no booking: the link found or not (O30), the alternative
showing of an episode known (O31), and the booking of a new one (O32). -/

namespace Sys2Proof.Machine

/-! ### The link of the series id -/

theorem linkAt_of_occupied {s : State} {h : Handle} {l : Link} (hl : (h, l) ∈ occupiedLinks s) : linkAt s h.slot = some l := by
  rw [mem_occupiedLinks] at hl
  simp [linkAt, hl]

theorem linkOfSeries_eq {s : State} {h : Handle} {l : Link} (hunique : SeriesUnique s) (hl : (h, l) ∈ occupiedLinks s) :
    linkOfSeries s l.seriesId = some (h, l) := by
  have hsome : (linkOfSeries s l.seriesId).isSome = true := by
    rw [linkOfSeries, List.find?_isSome]
    exact ⟨(h, l), hl, by simp⟩
  obtain ⟨⟨g, k⟩, hk⟩ := Option.isSome_iff_exists.mp hsome
  obtain ⟨hg, hid⟩ := linkOfSeries_some hk
  have hslot := hunique _ ((linkOf_iff_occupied s g k).mp hg) _ hl hid
  obtain ⟨rfl, rfl⟩ := linkOf_slot_unique hg ((linkOf_iff_occupied s h l).mpr hl) hslot
  exact hk

theorem linkOfSeries_none {s : State} {a : Announcement} (h : ∀ e ∈ occupiedLinks s, some e.2.seriesId ≠ a.series) :
    (a.series.bind fun id => linkOfSeries s id) = none := by
  cases ha : a.series with
  | none => rfl
  | some id =>
    rw [Option.bind_some, linkOfSeries, List.find?_eq_none]
    intro e he hid
    exact h e he (by rw [ha, beq_iff_eq.mp hid])

theorem announceUnknown_link {s : State} {a : Announcement} {h : Handle} {l : Link} (hunique : SeriesUnique s)
    (hl : (h, l) ∈ occupiedLinks s) (hid : some l.seriesId = a.series) : announceUnknown s a = announceToLink s h l a := by
  simp only [announceUnknown, ← hid, Option.bind_some, linkOfSeries_eq hunique hl]

theorem announceUnknown_none {s : State} {a : Announcement} (h : ∀ e ∈ occupiedLinks s, some e.2.seriesId ≠ a.series) :
    announceUnknown s a = s := by
  simp only [announceUnknown, linkOfSeries_none h]

/-! ### Step 2 (O30) -/

/-- The link with its status ACTIVE, which a premiere wakes it to whatever follows (R73). -/
def awakened (s : State) (h : Handle) : State := updateLink s h.slot fun l => { l with status := .active }

theorem sleepsThrough_iff (l : Link) (a : Announcement) :
    sleepsThrough l a = true ↔ l.status = .dormant ∧ a.premiere = false := by
  simp [sleepsThrough]

theorem prefers_iff (l : Link) (a : Announcement) : prefers l a = true ↔ ∀ c ∈ l.preference.toList, c = a.channel := by
  unfold prefers
  cases l.preference <;> simp

theorem announceToLink_sleeps {s : State} {h : Handle} {l : Link} {a : Announcement} (hst : l.status = .dormant)
    (hp : a.premiere = false) : announceToLink s h l a = s := by
  rw [announceToLink, if_pos ((sleepsThrough_iff l a).mpr ⟨hst, hp⟩)]

/-- The link is awake, or the announcement wakes it (R73). -/
theorem announceToLink_awake {s : State} {h : Handle} {l : Link} {a : Announcement}
    (hst : l.status = .active ∨ a.premiere = true) :
    announceToLink s h l a =
      if prefers l a && !reached s (satAdd a.start a.duration) then applyToLink (awakened s h) h l a else awakened s h := by
  have hawake : ¬ sleepsThrough l a = true := by
    rw [sleepsThrough_iff]
    rintro ⟨hd, hp⟩
    rcases hst with h | h
    · rw [hd] at h; cases h
    · rw [hp] at h; cases h
  rw [announceToLink, if_neg hawake]
  rfl

/-- Settles O30: no link, a link that sleeps, and a link that the announcement wakes and no more. -/
theorem matcherPassesOverAnnouncements : Obligations.MatcherPassesOverAnnouncements := by
  intro s a rest hq hp hunique
  have hexec := exec_matcherEvent_unknown hq hp
  refine ⟨fun hnone => ?noLink, fun e he hid => ⟨fun hst hpr => ?sleeps, fun hst hnot => ?woken⟩⟩
  case noLink =>
    rw [announceUnknown_none (s := { s with queue := rest }) hnone] at hexec
    exact ⟨_, hexec, rfl, settle_settled _⟩
  case sleeps =>
    rw [announceUnknown_link (s := { s with queue := rest }) hunique he hid, announceToLink_sleeps hst hpr] at hexec
    exact ⟨_, hexec, rfl, settle_settled _⟩
  case woken =>
    have hpassed : ¬ (prefers e.2 a && !reached { s with queue := rest } (satAdd a.start a.duration)) = true := by
      rw [Bool.and_eq_true, Bool.not_eq_true']
      rintro ⟨hprefers, hahead⟩
      rcases hnot with ⟨c, hc, hne⟩ | hended
      · exact hne ((prefers_iff e.2 a).mp hprefers c hc)
      · exact Bool.eq_false_iff.mp hahead ((reached_iff { s with queue := rest } _).mpr hended)
    rw [announceUnknown_link (s := { s with queue := rest }) hunique he hid, announceToLink_awake hst, if_neg hpassed] at hexec
    exact ⟨_, hexec, rfl, updateLink_agree _ _ _,
      updateLink_record (s := { s with queue := rest }) _ (linkAt_of_occupied he), settle_settled _⟩

/-! ### Step 3 (O31) -/

theorem exec_matcherEvent_stepThree {s : State} {a : Announcement} {rest : List Announcement} {h : Handle} {l : Link}
    (hq : s.queue = a :: rest) (hr : ReachesStepThree s a h l) :
    exec .matcherEvent s = .next (settle (applyToLink (awakened { s with queue := rest } h) h l a)) := by
  obtain ⟨hp, hunique, hl, hid, hst, hprefers, hahead⟩ := hr
  have htaken : (prefers l a && !reached { s with queue := rest } (satAdd a.start a.duration)) = true := by
    rw [Bool.and_eq_true, Bool.not_eq_true']
    exact ⟨(prefers_iff l a).mpr hprefers, reached_eq_false _ hahead⟩
  rw [exec_matcherEvent_unknown hq hp, announceUnknown_link (s := { s with queue := rest }) hunique hl hid,
    announceToLink_awake hst, if_pos htaken]

theorem applyToLink_known {s : State} {h : Handle} {l : Link} {a : Announcement} {id : Nat} (ha : a.episode = some id)
    (hid : id ∈ l.history) : applyToLink s h l a = attachAlternative s h id a := by
  simp [applyToLink, ha, hid, Option.filter]

/-- Step 3 finds a SCHEDULED booking of the link that carries the episode id exactly when there is one (R76). -/
theorem scheduledEpisode_none {s : State} {h : Handle} {id : Nat}
    (hnone : ∀ e ∈ occupied s, e.2.state = .scheduled → e.2.link = some h → e.2.episode ≠ some id) :
    scheduledEpisode s h id = none := by
  rw [scheduledEpisode, List.find?_eq_none]
  intro e he hfound
  obtain ⟨hocc, hlink⟩ := List.mem_filter.mp he
  simp only [Bool.and_eq_true, beq_iff_eq] at hfound hlink
  exact hnone e hocc hfound.1 hlink hfound.2

theorem scheduledEpisode_unique {s : State} {h : Handle} {id : Nat} {e : Handle × Booking} (he : e ∈ occupied s)
    (hst : e.2.state = .scheduled) (hlink : e.2.link = some h) (hep : e.2.episode = some id)
    (hone : ∀ f ∈ occupied s, f.2.state = .scheduled → f.2.link = some h → f.2.episode = some id → f.1.slot = e.1.slot) :
    scheduledEpisode s h id = some e := by
  have hsome : (scheduledEpisode s h id).isSome = true := by
    rw [scheduledEpisode, List.find?_isSome]
    exact ⟨e, List.mem_filter.mpr ⟨he, by simp [hlink]⟩, by simp [hst, hep]⟩
  obtain ⟨⟨g, b⟩, hb⟩ := Option.isSome_iff_exists.mp hsome
  obtain ⟨hg, hglink, hgst, hgep⟩ := scheduledEpisode_some hb
  obtain ⟨h1, h2⟩ := occupied_slot_unique hg he (hone _ hg hgst hglink hgep)
  rw [hb, h1, h2]

/-- Settles O31: the SCHEDULED booking of the episode, if there is one, and its alternative. -/
theorem matcherAttachesAnAlternative : Obligations.MatcherAttachesAnAlternative := by
  intro s a rest h l id hq hr ha hid
  have hl := linkAt_of_occupied hr.2.2.1
  obtain ⟨x, hx⟩ : ∃ x, x = awakened { s with queue := rest } h := ⟨_, rfl⟩
  have hexec : exec .matcherEvent s = .next (settle (attachAlternative x h id a)) := by
    rw [exec_matcherEvent_stepThree hq hr, applyToLink_known ha hid, hx]
  have hsame : x = { s with queue := rest, links := x.links } := by rw [hx]; rfl
  have hocc : occupied x = occupied s := by rw [hsame]; rfl
  have hlinks : (attachAlternative x h id a).links = x.links := by
    unfold attachAlternative
    split
    · split <;> rfl
    · rfl
  refine ⟨_, hexec, ?frame, ?others, ?record, settle_settled _, fun hnone => ?none, fun e he hst hlink hep hone => ?some⟩
  case frame =>
    have hattached : attachAlternative x h id a =
        { x with bookings := (attachAlternative x h id a).bookings, planner := (attachAlternative x h id a).planner } := by
      unfold attachAlternative
      split
      · split <;> rfl
      · rfl
    rw [hattached, hsame]
    rfl
  case others =>
    intro i hi
    show (attachAlternative x h id a).links[i]? = s.links[i]?
    rw [hlinks, hx]
    exact updateLink_agree { s with queue := rest } h.slot _ i hi
  case record =>
    show (attachAlternative x h id a).links[h.slot]? = _
    rw [hlinks, hx]
    exact updateLink_record (s := { s with queue := rest }) _ hl
  case none =>
    have hfound : scheduledEpisode x h id = none := scheduledEpisode_none (hocc ▸ hnone)
    rw [attachAlternative, hfound, hsame]
    exact ⟨rfl, rfl⟩
  case some =>
    have hfound : scheduledEpisode x h id = some e := scheduledEpisode_unique (hocc ▸ he) hst hlink hep (hocc ▸ hone)
    refine ⟨fun hsome => ?_, fun hnone => ?_⟩
    · rw [attachAlternative, hfound]
      simp only [Option.isNone_eq_false_iff.mpr hsome, Bool.false_eq_true, if_false]
      rw [hsame]
      exact ⟨rfl, rfl⟩
    · rw [attachAlternative, hfound]
      simp only [hnone, Option.isNone_none, if_true]
      have hb : bookingAt { s with queue := rest, links := x.links } e.1.slot = some e.2 :=
        (bookingAt_eq_some _ _ _).mpr (by
          have := (mem_occupied s e.1 e.2).mp he
          rw [show tagAt { s with queue := rest, links := x.links } e.1.slot = e.1.tag from tagAt_of_slot this]
          exact this)
      rw [hsame]
      exact ⟨updateBooking_agree { s with queue := rest, links := x.links } e.1.slot _, updateBooking_record _ hb, rfl⟩

end Sys2Proof.Machine
end

section
/-! PROOF. The Series Matcher books an episode (O32): the checks of steps 4 and 5 in their order, the history with room for
the id, and the booking it creates. -/

namespace Sys2Proof.Machine

/-! ### The history with room for one id (R59) -/

theorem dropFirst_none_iff (p : Nat → Bool) (xs : List Nat) : dropFirst p xs = none ↔ ∀ x ∈ xs, p x = false := by
  induction xs with
  | nil => simp [dropFirst]
  | cons x xs ih =>
    rw [dropFirst]
    cases hx : p x with
    | true => simp [hx]
    | false => simp [hx, ih]

/-- What is left out is the first member that meets the condition. -/
theorem dropFirst_split {p : Nat → Bool} {xs ys : List Nat} (h : dropFirst p xs = some ys) :
    ∃ before id after, xs = before ++ id :: after ∧ ys = before ++ after ∧ (∀ x ∈ before, p x = false) ∧ p id = true := by
  induction xs generalizing ys with
  | nil => cases h
  | cons x xs ih =>
    rw [dropFirst] at h
    split at h
    · next hx =>
      injection h with h
      exact ⟨[], x, xs, rfl, h.symm, by simp, hx⟩
    · next hx =>
      obtain ⟨zs, hzs, rfl⟩ := Option.map_eq_some_iff.mp h
      obtain ⟨before, id, after, rfl, rfl, hbefore, hid⟩ := ih hzs
      refine ⟨x :: before, id, after, rfl, rfl, ?_, hid⟩
      rintro z (_ | ⟨_, hz⟩)
      · exact Bool.eq_false_iff.mpr hx
      · exact hbefore z hz

theorem carriedLive_false_iff (s : State) (h : Handle) (id : Nat) :
    carriedLive s h id = false ↔ ∀ e ∈ occupied s, isLiveEpisode h id e.2 = false := by
  rw [Bool.eq_false_iff, Ne, carriedLive_iff, LiveEpisode]
  simp

/-- There is no room for the id: the history is full of ids that live bookings carry (R59, R81). -/
theorem historyAfter_none_iff (s : State) (h : Handle) (l : Link) (a : Announcement) :
    historyAfter s h l a = none ↔
      8 ≤ l.history.length ∧ a.episode.isSome = true ∧ ∀ x ∈ l.history, ∃ e ∈ occupied s, isLiveEpisode h x e.2 = true := by
  have hlive (x : Nat) : (!carriedLive s h x) = false ↔ ∃ e ∈ occupied s, isLiveEpisode h x e.2 = true := by
    rw [Bool.not_eq_false', carriedLive_iff]
    rfl
  unfold historyAfter historyWithRoom
  cases ha : a.episode with
  | none => simp
  | some id =>
    simp only [Option.map_eq_none_iff, Option.isSome_some, true_and]
    split
    · next hroom => simp [Nat.not_le.mpr hroom]
    · next hfull =>
      rw [dropFirst_none_iff]
      simp only [hlive]
      exact ⟨fun hall => ⟨Nat.not_lt.mp hfull, hall⟩, fun ⟨_, hall⟩ => hall⟩

/-- The history that the link gets: as it was below eight ids, else less the oldest id that no live booking carries; and the
new id at its end (R59, R82). -/
theorem historyAfter_kept {s : State} {h : Handle} {l : Link} {a : Announcement} {ids : List Nat}
    (hids : historyAfter s h l a = some ids) :
    ∃ kept, ids = kept ++ a.episode.toList ∧ (l.history.length < 8 ∨ a.episode = none → kept = l.history) ∧
      (8 ≤ l.history.length → a.episode.isSome = true →
        ∃ before id after, l.history = before ++ id :: after ∧ kept = before ++ after ∧
          (∀ x ∈ before, ∃ e ∈ occupied s, isLiveEpisode h x e.2 = true) ∧
          ∀ e ∈ occupied s, isLiveEpisode h id e.2 = false) := by
  unfold historyAfter at hids
  cases ha : a.episode with
  | none =>
    rw [ha] at hids
    exact ⟨l.history, by simpa using hids.symm, fun _ => rfl, fun _ hsome => by cases hsome⟩
  | some id =>
    rw [ha] at hids
    obtain ⟨kept, hkept, rfl⟩ := Option.map_eq_some_iff.mp hids
    refine ⟨kept, rfl, ?_, fun hfull _ => ?_⟩
    · rintro (hroom | hnone)
      · rw [historyWithRoom, if_pos hroom] at hkept
        exact (Option.some.inj hkept).symm
      · cases hnone
    · rw [historyWithRoom, if_neg (Nat.not_lt.mpr hfull)] at hkept
      obtain ⟨before, old, after, hsplit, hrest, hbefore, hold⟩ := dropFirst_split hkept
      refine ⟨before, old, after, hsplit, hrest, fun x hx => ?_, ?_⟩
      · exact (carriedLive_iff s h x).mp (by simpa using hbefore x hx)
      · exact (carriedLive_false_iff s h old).mp (by simpa using hold)

/-! ### Steps 4 and 5 (O32) -/

theorem applyToLink_new {s : State} {h : Handle} {l : Link} {a : Announcement} (hnew : ∀ id ∈ a.episode.toList, id ∉ l.history) :
    applyToLink s h l a = if a.isRepeat = true ∧ l.policy = .newOnly then s else bookEpisode s h l a := by
  have hfilter : (a.episode.filter fun e => l.history.contains e) = none := by
    rw [Option.filter_eq_none_iff]
    intro id hid
    simpa using hnew id (Option.mem_toList.mpr hid)
  rw [applyToLink, hfilter]
  simp

theorem scheduledCount_eq (s : State) (h : Handle) :
    scheduledCount s h = (occupied s).countP fun e => decide (e.2.link = some h ∧ e.2.state = .scheduled) := by
  rw [scheduledCount, bookingsOf, List.countP_filter]
  exact congrArg (fun p => List.countP p (occupied s)) (funext fun e => by rw [Bool.eq_iff_iff]; simp [and_comm])

/-- Steps 4 and 5 change the link found, and of the rest the bookings and the stale flag alone. -/
theorem bookEpisode_frame (s : State) (h : Handle) (l : Link) (a : Announcement) :
    bookEpisode s h l a =
        { s with bookings := (bookEpisode s h l a).bookings, links := (bookEpisode s h l a).links
                 planner := (bookEpisode s h l a).planner } ∧
      ∃ f, (bookEpisode s h l a).links = (updateLink s h.slot f).links := by
  unfold bookEpisode
  split
  · exact ⟨rfl, _, rfl⟩
  · split
    · exact ⟨rfl, _, rfl⟩
    · split
      · exact ⟨rfl, _, rfl⟩
      · exact ⟨rfl, _, rfl⟩

/-- A second change of a link's record, read from the table before the first. -/
theorem updateLink_record_twice {s : State} {i : Nat} {l : Link} (f g : Link → Link) (h : linkAt s i = some l) :
    (updateLink (updateLink s i f) i g).links[i]? = some ⟨linkTagAt s i, some (g (f l))⟩ := by
  rw [updateLink_slot, if_pos rfl, show (updateLink s i f).links[i]? = _ from updateLink_record f h]
  rfl

section steps
variable {s : State} {h : Handle} {l : Link} {a : Announcement}

theorem bookEpisode_keepAhead (hcount : l.keepAhead ≤ scheduledCount s h) : bookEpisode s h l a = setLimitNote s h := by
  rw [bookEpisode, if_pos hcount]

theorem bookEpisode_full (hcount : ¬ l.keepAhead ≤ scheduledCount s h) (hfull : lowestFreeBooking s = none) :
    bookEpisode s h l a = setTableFullNote s h := by
  rw [bookEpisode, if_neg hcount, hfull]

theorem bookEpisode_noRoom {slot : Nat} (hcount : ¬ l.keepAhead ≤ scheduledCount s h)
    (hslot : lowestFreeBooking s = some slot) (hids : historyAfter s h l a = none) :
    bookEpisode s h l a = setLimitNote s h := by
  simp only [bookEpisode, if_neg hcount, hslot, hids]

theorem bookEpisode_booked {slot : Nat} {ids : List Nat} (hcount : ¬ l.keepAhead ≤ scheduledCount s h)
    (hslot : lowestFreeBooking s = some slot) (hids : historyAfter s h l a = some ids) :
    bookEpisode s h l a =
      markStale (updateLink (occupyBooking s slot (seriesBooking h l a)) h.slot fun x => { x with history := ids }) := by
  simp only [bookEpisode, if_neg hcount, hslot, hids]

end steps

/-- Settles O32: the checks of steps 4 and 5 in their order. -/
theorem matcherBooksAnEpisode : Obligations.MatcherBooksAnEpisode := by
  intro s a rest h l hq hr hnew
  have hl := linkAt_of_occupied hr.2.2.1
  obtain ⟨x, hx⟩ : ∃ x, x = awakened { s with queue := rest } h := ⟨_, rfl⟩
  obtain ⟨y, hy⟩ : ∃ y, y = applyToLink x h l a := ⟨_, rfl⟩
  have hexec : exec .matcherEvent s = .next (settle y) := by rw [exec_matcherEvent_stepThree hq hr, hy, hx]
  have happly := hy.trans (applyToLink_new hnew)
  have hsame : x = { s with queue := rest, links := x.links } := by rw [hx]; rfl
  have hbookings : x.bookings = s.bookings := by rw [hsame]
  have hocc : occupied x = occupied s := by rw [hsame]; rfl
  have hcount : scheduledCount x h = (occupied s).countP fun e => decide (e.2.link = some h ∧ e.2.state = .scheduled) := by
    rw [scheduledCount_eq, hocc]
  have hawake : HoldsLink s x h.slot { l with status := .active } :=
    hx ▸ updateLink_record (s := { s with queue := rest }) _ hl
  have hnoted (f : Link → Link) : (updateLink x h.slot f).links[h.slot]? =
      some ⟨linkTagAt s h.slot, some (f { l with status := .active })⟩ :=
    hx ▸ updateLink_record_twice (s := { s with queue := rest }) _ f hl
  refine ⟨settle y, _, hexec, rfl, ?frame, ?others, settle_settled y, ?cases⟩
  case frame =>
    rw [happly]
    split
    · rw [hsame]; rfl
    · rw [(bookEpisode_frame x h l a).1, hsame]; rfl
  case others =>
    intro i hi
    have hxi : x.links[i]? = s.links[i]? := hx ▸ updateLink_agree { s with queue := rest } h.slot _ i hi
    show y.links[i]? = s.links[i]?
    rw [happly, ← hxi]
    split
    · rfl
    · obtain ⟨f, hf⟩ := (bookEpisode_frame x h l a).2
      rw [hf]
      exact updateLink_agree x h.slot f i hi
  case cases =>
    split
    · next hrepeat =>
      rw [happly, if_pos hrepeat]
      exact ⟨hawake, hbookings, by rw [hsame]; rfl⟩
    next hrepeat =>
    rw [if_neg hrepeat] at happly
    rw [← hcount]
    split
    · next hkeep =>
      rw [happly, bookEpisode_keepAhead hkeep]
      exact ⟨hnoted _, hbookings, by rw [hsame]; rfl⟩
    next hkeep =>
    split
    · next hfull =>
      rw [happly, bookEpisode_full hkeep ((lowestFreeBooking_eq_none x).mpr (hbookings ▸ hfull))]
      exact ⟨hnoted _, hbookings, by rw [hsame]; rfl⟩
    next hfree =>
    obtain ⟨slot, hslot⟩ : ∃ slot, lowestFreeBooking x = some slot := by
      rw [← Option.ne_none_iff_exists', Ne, lowestFreeBooking_eq_none, hbookings]
      exact hfree
    rw [← hocc]
    split
    · next hroom =>
      rw [happly, bookEpisode_noRoom hkeep hslot ((historyAfter_none_iff x h l a).mpr hroom)]
      exact ⟨hnoted _, hbookings, by rw [hsame]; rfl⟩
    next hroom =>
    obtain ⟨ids, hids⟩ : ∃ ids, historyAfter x h l a = some ids :=
      Option.ne_none_iff_exists'.mp fun hnone => hroom ((historyAfter_none_iff x h l a).mp hnone)
    obtain ⟨hlength, hempty, hbelow⟩ := (lowestFreeBooking_eq_some x slot).mp hslot
    obtain ⟨kept, hkept, hshort, hlong⟩ := historyAfter_kept hids
    have hat : bookingAt x = bookingAt s := by rw [hsame]; rfl
    rw [happly, bookEpisode_booked hkeep hslot hids]
    refine ⟨slot, hat ▸ hempty, hbookings ▸ hlength, hat ▸ hbelow, ?_, by rw [hsame]; rfl, kept, ?_, hshort, hlong⟩
    · rw [hsame]; rfl
    · rw [← hkept]
      exact hnoted fun z => { z with history := ids }

end Sys2Proof.Machine
end

section
/-! PROOF. The images of READ_BOOKING and READ_LINK (O18): a field is read from the part that holds it, past the parts
before it. -/

namespace Sys2Proof.Machine

/-! ### A field of an image in parts -/

@[simp] theorem fieldAt_skip (a b : List Byte) {o : Nat} (n : Nat) (h : a.length ≤ o) :
    fieldAt (a ++ b) o n = fieldAt b (o - a.length) n := fieldAt_right a b o n a.length rfl h

@[simp] theorem fieldAt_here (a b : List Byte) {o n : Nat} (h : o + n ≤ a.length) : fieldAt (a ++ b) o n = fieldAt a o n :=
  fieldAt_left a b o n a.length rfl h

/-! ### Codes (section 12.1) -/

theorem stateCode_fits (st : BookingState) : stateCode st % 256 = stateCode st := by cases st <;> rfl

theorem finishReasonCode_fits (o : Option FinishReason) : finishReasonCode o % 256 = finishReasonCode o := by
  rcases o with _ | _ | _ | _ | _ <;> rfl

theorem runningStatusCode_fits (st : RunningStatus) : runningStatusCode st % 256 = runningStatusCode st := by
  cases st <;> rfl

theorem verdictCode_fits (v : Verdict) : verdictCode v % 256 = verdictCode v := by
  rcases v with ⟨⟨_ | _ | _, _, _, _⟩⟩ | _ | _ | _ <;> rfl

theorem keyCode_eq (k : MuxKey) : keyCode k = keyValue k := by cases k <;> rfl

theorem keyValue_lt (k : MuxKey) : keyValue k < 65536 := by
  cases k <;> simp only [keyValue] <;> omega

@[simp] theorem showingStands_skip (a b : List Byte) {o : Nat} (v : Showing) (h : a.length ≤ o) :
    ShowingStands (a ++ b) o v ↔ ShowingStands b (o - a.length) v := by
  have past (k : Nat) : a.length ≤ o + k := Nat.le_add_right_of_le h
  simp only [ShowingStands, fieldAt_skip a b _ h, fieldAt_skip a b _ (past _), Nat.sub_add_comm h]

@[simp] theorem showingStands_here (b : List Byte) (v : Showing) : ShowingStands (showingBytes v ++ b) 0 v :=
  showingStands_of fun i n h => by
    rw [Nat.zero_add, fieldAt_here _ _ (by rw [length_showingBytes]; exact h)]

/-! ### The booking image, part by part (section 12.6) -/

/-- Offsets 0 to 8: handle, flags, codes and link reference. -/
def bookingHead (h : Handle) (b : Booking) : List Byte :=
  handleBytes h ++
    (flagByte [b.origin == .series, b.link.isSome, b.isRepeat, b.alternative.isSome, b.episode.isSome, b.follow,
        b.heldBack, b.lateStart] ++
      (flagByte [b.clashMark, b.installed.any fun e => e.clamped, b.running.isSome, b.startStamp.isSome,
          b.endStamp.isSome] ++
        (oneByte (stateCode b.state) ++ (oneByte (finishReasonCode b.finishReason) ++
          (oneByte (runningStatusCode b.runningStatus) ++ handleBytes (b.link.getD ⟨0, 0⟩))))))

/-- Offsets 35 to 46: episode id, pads, priority, extension used and version. -/
def bookingCounts (b : Booking) : List Byte :=
  fourBytes (b.episode.getD 0) ++ (twoBytes b.prePad ++ (twoBytes b.postPad ++ (oneByte b.priority ++
    (twoBytes b.extensionUsed ++ oneByte b.version))))

/-- Offsets 74 to 81: the stamps. -/
def bookingStamps (b : Booking) : List Byte := fourBytes (b.startStamp.getD 0) ++ fourBytes (b.endStamp.getD 0)

@[simp] theorem length_bookingHead (h : Handle) (b : Booking) : (bookingHead h b).length = 9 := by simp [bookingHead]
@[simp] theorem length_bookingCounts (b : Booking) : (bookingCounts b).length = 12 := by simp [bookingCounts]
@[simp] theorem length_bookingStamps (b : Booking) : (bookingStamps b).length = 8 := by simp [bookingStamps]

theorem bookingImage_parts (h : Handle) (b : Booking) :
    bookingImage h b =
      bookingHead h b ++ (showingBytes b.primary ++ (optionalShowingBytes b.alternative ++ (bookingCounts b ++
        (installedBytes b.installed ++ (runningBytes b.running ++ bookingStamps b))))) := by
  simp only [bookingImage, bookingHead, bookingCounts, bookingStamps, List.append_assoc]
  cases b.installed <;> rfl

theorem bookingHead_fields (h : Handle) (b : Booking) :
    fieldAt (bookingHead h b) 0 1 = h.slot % 256 ∧ fieldAt (bookingHead h b) 1 1 = h.tag % 256 ∧
    fieldAt (bookingHead h b) 2 1 =
      (b.origin == .series).toNat + 2 * b.link.isSome.toNat + 4 * b.isRepeat.toNat +
        8 * b.alternative.isSome.toNat + 16 * b.episode.isSome.toNat + 32 * b.follow.toNat +
        64 * b.heldBack.toNat + 128 * b.lateStart.toNat ∧
    fieldAt (bookingHead h b) 3 1 =
      b.clashMark.toNat + 2 * (b.installed.any fun e => e.clamped).toNat + 4 * b.running.isSome.toNat +
        8 * b.startStamp.isSome.toNat + 16 * b.endStamp.isSome.toNat ∧
    fieldAt (bookingHead h b) 4 1 = stateCode b.state ∧ fieldAt (bookingHead h b) 5 1 = finishReasonCode b.finishReason ∧
    fieldAt (bookingHead h b) 6 1 = runningStatusCode b.runningStatus ∧
    fieldAt (bookingHead h b) 7 1 = (b.link.getD ⟨0, 0⟩).slot % 256 ∧
    fieldAt (bookingHead h b) 8 1 = (b.link.getD ⟨0, 0⟩).tag % 256 ∧ (b.link = none → fieldAt (bookingHead h b) 7 2 = 0) := by
  refine ⟨?_, ?_, ?_, ?_, ?_, ?_, ?_, ?_, ?_, fun hl => ?_⟩
  · simp [bookingHead, fieldAt_handle_slot]
  · simp [bookingHead, fieldAt_handle_tag]
  · simp [bookingHead, fieldAt_flagByte]
    omega
  · simp [bookingHead, fieldAt_flagByte]
    omega
  · simp [bookingHead, fieldAt_oneByte, stateCode_fits]
  · simp [bookingHead, fieldAt_oneByte, finishReasonCode_fits]
  · simp [bookingHead, fieldAt_oneByte, runningStatusCode_fits]
  · simp [bookingHead, fieldAt_handle_slot]
  · simp [bookingHead, fieldAt_handle_tag]
  · have hzeros : fieldAt (handleBytes ⟨0, 0⟩) 0 2 = 0 := rfl
    simp [bookingHead, hl, hzeros]

theorem bookingCounts_fields (b : Booking) :
    fieldAt (bookingCounts b) 0 4 = b.episode.getD 0 % 4294967296 ∧ fieldAt (bookingCounts b) 4 2 = b.prePad % 65536 ∧
    fieldAt (bookingCounts b) 6 2 = b.postPad % 65536 ∧ fieldAt (bookingCounts b) 8 1 = b.priority % 256 ∧
    fieldAt (bookingCounts b) 9 2 = b.extensionUsed % 65536 ∧ fieldAt (bookingCounts b) 11 1 = b.version % 256 := by
  simp [bookingCounts, fieldAt_fourBytes, fieldAt_twoBytes, fieldAt_oneByte]

theorem installedBytes_fields (e : Evaluation) :
    fieldAt (installedBytes (some e)) 0 1 = verdictCode e.verdict ∧
    (∀ p ∈ e.verdict.placement.toList,
      fieldAt (installedBytes (some e)) 1 1 = tunerCode p.tuner ∧
        fieldAt (installedBytes (some e)) 2 4 = p.openAt % 4294967296 ∧
        fieldAt (installedBytes (some e)) 6 4 = p.closeAt % 4294967296) ∧
    (e.verdict.placement = none → fieldAt (installedBytes (some e)) 1 9 = 0) ∧
    fieldAt (installedBytes (some e)) 10 1 = e.stamp % 256 ∧ (fieldAt (installedBytes (some e)) 11 2 : Int) = e.merit % 65536 := by
  obtain ⟨v, stamp, merit, clamped⟩ := e
  have htuner (t : Tuner) : tunerCode t % 256 = tunerCode t := by cases t <;> rfl
  have hzeros : fieldAt (List.replicate 9 0#8) 0 9 = 0 := rfl
  cases v with
  | placed p =>
    simp [installedBytes, Verdict.placement, fieldAt_oneByte, fieldAt_fourBytes, fieldAt_signedTwoBytes, verdictCode_fits, htuner]
  | clashed =>
    simp [installedBytes, Verdict.placement, fieldAt_oneByte, fieldAt_signedTwoBytes, verdictCode_fits, hzeros,
      -List.reduceReplicate]
  | lapsed =>
    simp [installedBytes, Verdict.placement, fieldAt_oneByte, fieldAt_signedTwoBytes, verdictCode_fits, hzeros,
      -List.reduceReplicate]
  | unreachable =>
    simp [installedBytes, Verdict.placement, fieldAt_oneByte, fieldAt_signedTwoBytes, verdictCode_fits, hzeros,
      -List.reduceReplicate]

theorem runningBytes_fields (r : RunningPlacement) :
    fieldAt (runningBytes (some r)) 0 1 = tunerCode r.tuner ∧ fieldAt (runningBytes (some r)) 1 2 = keyValue r.key ∧
    fieldAt (runningBytes (some r)) 3 1 = usedCode r.used ∧
    fieldAt (runningBytes (some r)) 4 4 = r.actualOpen % 4294967296 ∧
    fieldAt (runningBytes (some r)) 8 2 = r.postAllowance % 65536 ∧
    fieldAt (runningBytes (some r)) 10 4 = r.closePoint % 4294967296 := by
  have htuner (t : Tuner) : tunerCode t % 256 = tunerCode t := by cases t <;> rfl
  have hused (u : ShowingUsed) : usedCode u % 256 = usedCode u := by cases u <;> rfl
  simp [runningBytes, fieldAt_oneByte, fieldAt_twoBytes, fieldAt_fourBytes, htuner, hused, keyCode_eq, keyValue_lt]

section parts
variable (h : Handle) (b : Booking) (i n : Nat)

theorem fieldAt_bookingImage_head (hi : i + n ≤ 9) : fieldAt (bookingImage h b) i n = fieldAt (bookingHead h b) i n := by
  rw [bookingImage_parts, fieldAt_here _ _ (by rwa [length_bookingHead])]

theorem showingStands_bookingImage_primary : ShowingStands (bookingImage h b) 9 b.primary := by
  simp [bookingImage_parts]

/-- Past the head and the primary showing. -/
theorem fieldAt_bookingImage_rest :
    fieldAt (bookingImage h b) (22 + i) n =
      fieldAt (optionalShowingBytes b.alternative ++ (bookingCounts b ++ (installedBytes b.installed ++
        (runningBytes b.running ++ bookingStamps b)))) i n := by
  rw [bookingImage_parts, ← List.append_assoc, fieldAt_right _ _ _ _ 22 (by simp) (by omega), Nat.add_sub_cancel_left]

theorem fieldAt_bookingImage_alternative (hi : i + n ≤ 13) :
    fieldAt (bookingImage h b) (22 + i) n = fieldAt (optionalShowingBytes b.alternative) i n := by
  rw [fieldAt_bookingImage_rest, fieldAt_here _ _ (by rwa [length_optionalShowingBytes])]

theorem fieldAt_bookingImage_counts (hi : i + n ≤ 12) :
    fieldAt (bookingImage h b) (35 + i) n = fieldAt (bookingCounts b) i n := by
  have hrest := fieldAt_bookingImage_rest h b (13 + i) n
  rw [fieldAt_part _ _ _ 13 12 i n (by simp) (by simp) hi, ← Nat.add_assoc] at hrest
  exact hrest

theorem fieldAt_bookingImage_installed (hi : i + n ≤ 13) :
    fieldAt (bookingImage h b) (47 + i) n = fieldAt (installedBytes b.installed) i n := by
  have hrest := fieldAt_bookingImage_rest h b (25 + i) n
  rw [← List.append_assoc, fieldAt_part _ _ _ 25 13 i n (by simp) (by simp) hi, ← Nat.add_assoc] at hrest
  exact hrest

theorem fieldAt_bookingImage_running (hi : i + n ≤ 14) :
    fieldAt (bookingImage h b) (60 + i) n = fieldAt (runningBytes b.running) i n := by
  have hrest := fieldAt_bookingImage_rest h b (38 + i) n
  rw [← List.append_assoc, ← List.append_assoc, fieldAt_part _ _ _ 38 14 i n (by simp) (by simp) hi, ← Nat.add_assoc] at hrest
  exact hrest

theorem fieldAt_bookingImage_stamps : fieldAt (bookingImage h b) (74 + i) n = fieldAt (bookingStamps b) i n := by
  have hrest := fieldAt_bookingImage_rest h b (52 + i) n
  rw [← List.append_assoc, ← List.append_assoc, ← List.append_assoc, fieldAt_right _ _ _ _ 52 (by simp) (by omega),
    Nat.add_sub_cancel_left, ← Nat.add_assoc] at hrest
  exact hrest

end parts

/-! ### The link image (section 12.7) -/

/-- Offsets 0 to 19: everything before the history. -/
def linkHead (h : Handle) (l : Link) (m n : Nat) : List Byte :=
  handleBytes h ++ (fourBytes l.seriesId ++ (twoBytes (l.preference.getD 65535) ++ (oneByte (linkPolicyCode l.policy) ++
    (oneByte (linkStatusCode l.status) ++ (oneByte l.priority ++ (twoBytes l.prePad ++ (twoBytes l.postPad ++
      (flagByte [l.follow, l.noteLimit, l.noteTableFull] ++ (oneByte l.keepAhead ++ (oneByte m ++ (oneByte n ++
        oneByte l.history.length)))))))))))

@[simp] theorem length_linkHead (h : Handle) (l : Link) (m n : Nat) : (linkHead h l m n).length = 20 := by simp [linkHead]

theorem linkImage_parts (h : Handle) (l : Link) (m n : Nat) :
    linkImage h l m n = linkHead h l m n ++ historyBytes l.history := by
  simp only [linkImage, linkHead, List.append_assoc]

theorem linkHead_fields (h : Handle) (l : Link) (m n : Nat) :
    fieldAt (linkHead h l m n) 0 1 = h.slot % 256 ∧ fieldAt (linkHead h l m n) 1 1 = h.tag % 256 ∧
    fieldAt (linkHead h l m n) 2 4 = l.seriesId % 4294967296 ∧
    fieldAt (linkHead h l m n) 6 2 = l.preference.getD 65535 % 65536 ∧
    fieldAt (linkHead h l m n) 8 1 = linkPolicyCode l.policy ∧ fieldAt (linkHead h l m n) 9 1 = linkStatusCode l.status ∧
    fieldAt (linkHead h l m n) 10 1 = l.priority % 256 ∧ fieldAt (linkHead h l m n) 11 2 = l.prePad % 65536 ∧
    fieldAt (linkHead h l m n) 13 2 = l.postPad % 65536 ∧
    fieldAt (linkHead h l m n) 15 1 = l.follow.toNat + 2 * l.noteLimit.toNat + 4 * l.noteTableFull.toNat ∧
    fieldAt (linkHead h l m n) 16 1 = l.keepAhead % 256 ∧ fieldAt (linkHead h l m n) 17 1 = m % 256 ∧
    fieldAt (linkHead h l m n) 18 1 = n % 256 ∧ fieldAt (linkHead h l m n) 19 1 = l.history.length % 256 := by
  have hpolicy : linkPolicyCode l.policy % 256 = linkPolicyCode l.policy := by cases l.policy <;> rfl
  have hstatus : linkStatusCode l.status % 256 = linkStatusCode l.status := by cases l.status <;> rfl
  refine ⟨?_, ?_, ?_, ?_, ?_, ?_, ?_, ?_, ?_, ?flags, ?_, ?_, ?_, ?_⟩
  case flags =>
    simp [linkHead, fieldAt_flagByte]
    omega
  all_goals simp [linkHead, fieldAt_handle_slot, fieldAt_handle_tag, fieldAt_fourBytes, fieldAt_twoBytes, fieldAt_oneByte,
    hpolicy, hstatus]

/-- The i-th of a row of four-byte values. -/
theorem fieldAt_flatMap_fourBytes {ids : List Nat} {i : Nat} (hi : i < ids.length) :
    fieldAt (ids.flatMap fourBytes) (4 * i) 4 = ids.getD i 0 % 4294967296 := by
  induction ids generalizing i with
  | nil => exact absurd hi (Nat.not_lt_zero i)
  | cons id ids ih =>
    rw [List.flatMap_cons]
    cases i with
    | zero => simp [fieldAt_fourBytes]
    | succ i =>
      rw [fieldAt_right _ _ _ _ 4 (by simp) (by omega), show 4 * (i + 1) - 4 = 4 * i by omega,
        ih (Nat.lt_of_succ_lt_succ hi), List.getD_cons_succ]

theorem fieldAt_historyBytes (ids : List Nat) {i : Nat} (hi : i < 8) :
    fieldAt (historyBytes ids) (4 * i) 4 = ids.getD i 0 % 4294967296 := by
  rw [historyBytes, fieldAt_flatMap_fourBytes (by simp [Config.historyPlaces]; omega)]
  rw [List.getD_eq_getElem?_getD, List.getElem?_take_of_lt hi, List.getD_eq_getElem?_getD]
  by_cases hlt : i < ids.length
  · rw [List.getElem?_append_left hlt]
  · rw [List.getElem?_append_right (Nat.not_lt.mp hlt), List.getElem?_eq_none (Nat.not_lt.mp hlt), List.getElem?_replicate]
    split <;> rfl

theorem bookingImage_layout (h : Handle) (b : Booking) (img : List Byte) (himg : img = bookingImage h b) :
    img.length = 82 ∧ fieldAt img 0 1 = h.slot % 256 ∧ fieldAt img 1 1 = h.tag % 256 ∧
    fieldAt img 2 1 =
      (b.origin == .series).toNat + 2 * b.link.isSome.toNat + 4 * b.isRepeat.toNat +
        8 * b.alternative.isSome.toNat + 16 * b.episode.isSome.toNat + 32 * b.follow.toNat +
        64 * b.heldBack.toNat + 128 * b.lateStart.toNat ∧
    fieldAt img 3 1 =
      b.clashMark.toNat + 2 * (b.installed.any fun e => e.clamped).toNat + 4 * b.running.isSome.toNat +
        8 * b.startStamp.isSome.toNat + 16 * b.endStamp.isSome.toNat ∧
    fieldAt img 4 1 =
      (match b.state with
        | .scheduled => 0 | .starting => 1 | .recording => 2 | .completed => 3 | .aborted => 4 | .failed => 5
        | .missed => 6) ∧
    fieldAt img 5 1 =
      (match b.finishReason with
        | none => 0 | some .stopped => 1 | some .withdrawn => 2 | some .declined => 3 | some .noConfirm => 4) ∧
    fieldAt img 6 1 = (match b.runningStatus with | .unknown => 0 | .running => 1 | .notRunning => 2) ∧
    (∀ l ∈ b.link.toList, fieldAt img 7 1 = l.slot % 256 ∧ fieldAt img 8 1 = l.tag % 256) ∧
    (b.link = none → fieldAt img 7 2 = 0) ∧
    ShowingStands img 9 b.primary ∧ (∀ v ∈ b.alternative.toList, ShowingStands img 22 v) ∧
    (b.alternative = none → fieldAt img 22 13 = 0) ∧
    fieldAt img 35 4 = b.episode.getD 0 % 4294967296 ∧ fieldAt img 39 2 = b.prePad % 65536 ∧
    fieldAt img 41 2 = b.postPad % 65536 ∧ fieldAt img 43 1 = b.priority % 256 ∧
    fieldAt img 44 2 = b.extensionUsed % 65536 ∧ fieldAt img 46 1 = b.version % 256 ∧
    (b.installed = none → fieldAt img 47 13 = 0) ∧
    (∀ e ∈ b.installed.toList,
      fieldAt img 47 1 =
        (match e.verdict with
          | .placed p => (match p.kind with | .placed => 1 | .trimmed => 2 | .onAlternative => 3)
          | .clashed => 4 | .lapsed => 5 | .unreachable => 6) ∧
      (∀ p ∈ e.verdict.placement.toList,
        fieldAt img 48 1 = (match p.tuner with | .tuner0 => 0 | .tuner1 => 1) ∧
          fieldAt img 49 4 = p.openAt % 4294967296 ∧ fieldAt img 53 4 = p.closeAt % 4294967296) ∧
      (e.verdict.placement = none → fieldAt img 48 9 = 0) ∧
      fieldAt img 57 1 = e.stamp % 256 ∧ (fieldAt img 58 2 : Int) = e.merit % 65536) ∧
    (b.running = none → fieldAt img 60 14 = 0) ∧
    (∀ r ∈ b.running.toList,
      fieldAt img 60 1 = (match r.tuner with | .tuner0 => 0 | .tuner1 => 1) ∧
        fieldAt img 61 2 = keyValue r.key ∧
        fieldAt img 63 1 = (match r.used with | .primary => 0 | .alternative => 1) ∧
        fieldAt img 64 4 = r.actualOpen % 4294967296 ∧ fieldAt img 68 2 = r.postAllowance % 65536 ∧
        fieldAt img 70 4 = r.closePoint % 4294967296) ∧
    fieldAt img 74 4 = b.startStamp.getD 0 % 4294967296 ∧ fieldAt img 78 4 = b.endStamp.getD 0 % 4294967296 := by
  have head (i n : Nat) (hi : i + n ≤ 9) : fieldAt img i n = fieldAt (bookingHead h b) i n := by
    rw [himg, fieldAt_bookingImage_head h b i n hi]
  have alternative (i n : Nat) (hi : i + n ≤ 13) : fieldAt img (22 + i) n = fieldAt (optionalShowingBytes b.alternative) i n := by
    rw [himg, fieldAt_bookingImage_alternative h b i n hi]
  have counts (i n : Nat) (hi : i + n ≤ 12) : fieldAt img (35 + i) n = fieldAt (bookingCounts b) i n := by
    rw [himg, fieldAt_bookingImage_counts h b i n hi]
  have placed (i n : Nat) (hi : i + n ≤ 13) : fieldAt img (47 + i) n = fieldAt (installedBytes b.installed) i n := by
    rw [himg, fieldAt_bookingImage_installed h b i n hi]
  have placement (i n : Nat) (hi : i + n ≤ 14) : fieldAt img (60 + i) n = fieldAt (runningBytes b.running) i n := by
    rw [himg, fieldAt_bookingImage_running h b i n hi]
  have stamps (i n : Nat) : fieldAt img (74 + i) n = fieldAt (bookingStamps b) i n := by
    rw [himg, fieldAt_bookingImage_stamps h b i n]
  obtain ⟨hslot, htag, hflags, hmarks, hstate, hreason, hstatus, hlslot, hltag, hnolink⟩ := bookingHead_fields h b
  obtain ⟨hepisode, hpre, hpost, hpriority, hextension, hversion⟩ := bookingCounts_fields b
  refine ⟨by rw [himg, length_bookingImage], (head 0 1 (by decide)).trans hslot, (head 1 1 (by decide)).trans htag,
    (head 2 1 (by decide)).trans hflags, (head 3 1 (by decide)).trans hmarks, ?_, ?_, ?_, fun l hl => ?_,
    fun hl => (head 7 2 (by decide)).trans (hnolink hl), himg ▸ showingStands_bookingImage_primary h b,
    fun v hv => ?_, fun hv => ?_,
    (counts 0 4 (by decide)).trans hepisode, (counts 4 2 (by decide)).trans hpre, (counts 6 2 (by decide)).trans hpost,
    (counts 8 1 (by decide)).trans hpriority, (counts 9 2 (by decide)).trans hextension,
    (counts 11 1 (by decide)).trans hversion, fun he => ?_, fun e he => ?_, fun hr => ?_,
    fun r hr => ?_, (stamps 0 4).trans ?_, (stamps 4 4).trans ?_⟩
  · rw [head 4 1 (by decide), hstate]; cases b.state <;> rfl
  · rw [head 5 1 (by decide), hreason]; rcases b.finishReason with _ | _ | _ | _ | _ <;> rfl
  · rw [head 6 1 (by decide), hstatus]; cases b.runningStatus <;> rfl
  · rw [head 7 1 (by decide), head 8 1 (by decide), hlslot, hltag, Option.mem_toList.mp hl]
    exact ⟨rfl, rfl⟩
  · refine showingStands_of fun i n hi => ?_
    rw [alternative i n hi, Option.mem_toList.mp hv]
    rfl
  · refine (alternative 0 13 (by decide)).trans ?_
    rw [hv]
    rfl
  · refine (placed 0 13 (by decide)).trans ?_
    rw [he]
    rfl
  · rw [Option.mem_toList.mp he] at placed
    obtain ⟨hverdict, hplaced, hnone, hstamp, hmerit⟩ := installedBytes_fields e
    refine ⟨(placed 0 1 (by decide)).trans (hverdict.trans ?_), fun p hp => ?_, fun hp => (placed 1 9 (by decide)).trans (hnone hp),
      (placed 10 1 (by decide)).trans hstamp, (congrArg Nat.cast (placed 11 2 (by decide))).trans hmerit⟩
    · rcases e.verdict with ⟨⟨_ | _ | _, _, _, _⟩⟩ | _ | _ | _ <;> rfl
    · obtain ⟨htuner, hopen, hclose⟩ := hplaced p hp
      refine ⟨(placed 1 1 (by decide)).trans (htuner.trans ?_), (placed 2 4 (by decide)).trans hopen,
        (placed 6 4 (by decide)).trans hclose⟩
      cases p.tuner <;> rfl
  · refine (placement 0 14 (by decide)).trans ?_
    rw [hr]
    rfl
  · rw [Option.mem_toList.mp hr] at placement
    obtain ⟨htuner, hkey, hused, hopen, hpost, hclose⟩ := runningBytes_fields r
    refine ⟨(placement 0 1 (by decide)).trans (htuner.trans ?_), (placement 1 2 (by decide)).trans hkey,
      (placement 3 1 (by decide)).trans (hused.trans ?_), (placement 4 4 (by decide)).trans hopen,
      (placement 8 2 (by decide)).trans hpost, (placement 10 4 (by decide)).trans hclose⟩
    · cases r.tuner <;> rfl
    · cases r.used <;> rfl
  · simp [bookingStamps, fieldAt_fourBytes]
  · simp [bookingStamps, fieldAt_fourBytes]

/-- Settles O18: the two images part by part. -/
theorem imagesHaveTheirLayout : Obligations.ImagesHaveTheirLayout := by
  refine ⟨bookingImage_layout, fun h l m n img himg hlength => ?_⟩
  have head (i k : Nat) (hi : i + k ≤ 20) : fieldAt img i k = fieldAt (linkHead h l m n) i k := by
    rw [himg, linkImage_parts, fieldAt_here _ _ (by rwa [length_linkHead])]
  obtain ⟨hslot, htag, hseries, hpreference, hpolicy, hstatus, hpriority, hpre, hpost, hflags, hkeep, hm, hn, hcount⟩ :=
    linkHead_fields h l m n
  refine ⟨by rw [himg, length_linkImage], (head 0 1 (by decide)).trans hslot, (head 1 1 (by decide)).trans htag,
    (head 2 4 (by decide)).trans hseries, (head 6 2 (by decide)).trans hpreference, ?policy, ?status,
    (head 10 1 (by decide)).trans hpriority, (head 11 2 (by decide)).trans hpre, (head 13 2 (by decide)).trans hpost,
    (head 15 1 (by decide)).trans hflags, (head 16 1 (by decide)).trans hkeep, (head 17 1 (by decide)).trans hm,
    (head 18 1 (by decide)).trans hn, (head 19 1 (by decide)).trans (hcount.trans (Nat.mod_eq_of_lt (by omega))),
    fun i hi => ?history⟩
  case policy => rw [head 8 1 (by decide), hpolicy]; cases l.policy <;> rfl
  case status => rw [head 9 1 (by decide), hstatus]; cases l.status <;> rfl
  case history =>
    rw [himg, linkImage_parts, fieldAt_right _ _ _ _ 20 (length_linkHead h l m n) (by omega), Nat.add_sub_cancel_left,
      fieldAt_historyBytes l.history hi]

end Sys2Proof.Machine
end

section
/-! PROOF. LIST and LIST_LINKS (O19), the resolution of channels (O20) and the requests that change the map (O21). -/

namespace Sys2Proof.Machine

/-! ### The fields of LIST and LIST_LINKS -/

theorem stateSetNonempty_iff (set : Byte) : stateSetNonempty set = true ↔ ∃ i, i < 7 ∧ set.getLsbD i = true := by
  simp only [stateSetNonempty, List.any_eq_true, List.mem_range]

theorem originOf_isSome_iff (o : Nat) : (originOf o).isSome = true ↔ o ≤ 1 := by
  match o with
  | 0 => decide
  | 1 => decide
  | n + 2 => simp [originOf]

theorem originOf_eq_some (o : Nat) (x : Origin) : originOf o = some x ↔ originCode x = o := by
  match o with
  | 0 => cases x <;> decide
  | 1 => cases x <;> decide
  | n + 2 => cases x <;> simp [originOf, originCode]

theorem linkHandleInRange_iff (h : Handle) : linkHandleInRange h = true ↔ h.slot ≤ 31 ∧ h.tag ≠ 0 := by
  simp [linkHandleInRange]

theorem listFieldsAllowed_iff (f : ListFields) :
    listFieldsAllowed f = true ↔
      (∃ i, i < 7 ∧ f.states.getLsbD i = true) ∧ f.start ≤ 127 ∧ (∀ o ∈ f.origin.toList, o ≤ 1) ∧
        ∀ h ∈ f.link.toList, h.slot ≤ 31 ∧ h.tag ≠ 0 := by
  obtain ⟨states, origin, link, start⟩ := f
  rw [← stateSetNonempty_iff]
  cases origin with
  | none => cases link <;> simp [listFieldsAllowed, linkHandleInRange_iff, and_assoc]
  | some o => cases link <;> simp [listFieldsAllowed, linkHandleInRange_iff, originOf_isSome_iff, and_assoc]

theorem linkRefusal_stale {s : State} {h : Handle} (hr : linkRefusal s h = some .staleHandle) :
    (h.slot ≤ 31 ∧ h.tag ≠ 0) ∧ linkOf s h = none := by
  unfold linkRefusal at hr
  split at hr
  · cases hr
  · next hin =>
    split at hr
    · next hnone => exact ⟨by omega, hnone⟩
    · cases hr

theorem listMatches_eq (f : ListFields) (h : Handle) (b : Booking) :
    listMatches f h b =
      decide (f.start ≤ h.slot ∧ f.states.getLsbD (stateCode b.state) = true ∧
        (∀ o ∈ f.origin.toList, originCode b.origin = o) ∧ ∀ l ∈ f.link.toList, b.link = some l) := by
  obtain ⟨states, origin, link, start⟩ := f
  rw [Bool.eq_iff_iff, decide_eq_true_eq]
  cases origin with
  | none => cases link <;> simp [listMatches, stateInSet, and_assoc]
  | some o => cases link <;> simp [listMatches, stateInSet, originOf_eq_some, and_assoc]

theorem listLinksMatches_eq (statuses : Byte) (noted : Bool) (start : Nat) (h : Handle) (l : Link) :
    listLinksMatches statuses noted start h l =
      decide (start ≤ h.slot ∧ statuses.getLsbD (linkStatusCode l.status) = true ∧
        (noted = true → l.noteLimit = true ∨ l.noteTableFull = true)) := by
  rw [Bool.eq_iff_iff]
  cases noted <;> simp [listLinksMatches, statusInSet, and_assoc]

theorem listLinkCurrent_iff (s : State) (f : ListFields) :
    listLinkCurrent s f = true ↔ ∀ h ∈ f.link.toList, (linkOf s h).isSome = true := by
  unfold listLinkCurrent
  cases f.link <;> simp

/-! ### LIST and LIST_LINKS (O19) -/

theorem list_refusals {s : State} {f : ListFields} {d : Bool} (ht : Taking s (.list f) d) :
    ((∀ i, i < 7 → f.states.getLsbD i = false) ∨ 127 < f.start ∨ (∃ o ∈ f.origin.toList, 1 < o) ∨
        (∃ h ∈ f.link.toList, 31 < h.slot ∨ h.tag = 0) →
      RefusedWith s (.list f) d .badValue) ∧
    ((∃ i, i < 7 ∧ f.states.getLsbD i = true) → f.start ≤ 127 → (∀ o ∈ f.origin.toList, o ≤ 1) →
      (∃ h ∈ f.link.toList, linkRefusal s h = some .staleHandle) → RefusedWith s (.list f) d .staleHandle) := by
  refine ⟨fun hbad => ?_, fun hset hstart horigin ⟨h, hh, hstale⟩ => ?_⟩
  · refine refusedWith_of (r := .list f) (exec_list ht) ?_
    have hnot : ¬ listFieldsAllowed f = true := by
      rw [listFieldsAllowed_iff]
      rintro ⟨⟨i, hi, hset⟩, hstart, horigin, hlink⟩
      rcases hbad with hempty | hlate | ⟨o, ho, hout⟩ | ⟨h, hh, hout⟩
      · rw [hempty i hi] at hset; cases hset
      · omega
      · exact absurd (horigin o ho) (Nat.not_le.mpr hout)
      · have := hlink h hh; omega
    rw [takeList, if_neg hnot]
  · obtain ⟨hrange, hnone⟩ := linkRefusal_stale hstale
    refine refusedWith_of (r := .list f) (exec_list ht) ?_
    have hallowed : listFieldsAllowed f = true := by
      refine (listFieldsAllowed_iff f).mpr ⟨hset, hstart, horigin, fun g hg => ?_⟩
      rw [Option.mem_toList.mp hg] at hh
      exact (List.mem_singleton.mp hh) ▸ hrange
    have hgone : ¬ listLinkCurrent s f = true := by
      rw [listLinkCurrent_iff]
      intro hall
      have := hall h hh
      rw [hnone] at this
      cases this
    rw [takeList, if_pos hallowed, if_neg hgone]

/-- Settles O19: the refusals by the check that fails, and the matches under the filter's own words. -/
theorem listsReturnTheMatches : Obligations.ListsReturnTheMatches := by
  refine ⟨fun s f d ht => list_refusals ht, fun s statuses noted start d ht hbad => ?linksRefused,
    fun s f d ht hset hstart horigin hlink => ?list, fun s statuses noted start d ht hset hstart => ?links⟩
  case linksRefused =>
    refine refusedWith_of (r := .listLinks statuses noted start) (exec_listLinks ht) ?_
    have hnot : ¬ (statusSetNonempty statuses && decide (start ≤ 31)) = true := by
      rw [Bool.and_eq_true, decide_eq_true_eq, statusSetNonempty, Bool.or_eq_true]
      rintro ⟨hset, hstart⟩
      rcases hbad with ⟨h0, h1⟩ | hlate
      · rw [h0, h1] at hset
        rcases hset with h | h <;> cases h
      · omega
    rw [takeListLinks, if_neg hnot]
  case list =>
    have hallowed : listFieldsAllowed f = true :=
      (listFieldsAllowed_iff f).mpr ⟨hset, hstart, horigin, fun h hh => ⟨(hlink h hh).1, (hlink h hh).2.1⟩⟩
    have hcurrent : listLinkCurrent s f = true := (listLinkCurrent_iff s f).mpr fun h hh => (hlink h hh).2.2
    rw [exec_list ht, takeList, if_pos hallowed, if_pos hcurrent, listResults_eq]
    simp only [listMatches_eq]
    exact read_next s (.list f) d false _
  case links =>
    have hallowed : (statusSetNonempty statuses && decide (start ≤ 31)) = true := by
      rw [Bool.and_eq_true, decide_eq_true_eq, statusSetNonempty, Bool.or_eq_true]
      exact ⟨hset, hstart⟩
    rw [exec_listLinks ht, takeListLinks, if_pos hallowed, listResults_eq]
    simp only [listLinksMatches_eq]
    exact read_next s (.listLinks statuses noted start) d false _

/-! ### Resolution (O20) -/

/-- Settles O20: the entry of the channel, or the default band. -/
theorem channelsResolve : Obligations.ChannelsResolve := by
  refine ⟨fun s e hsorted he => ?entry, fun s c hnone => ?default, fun e => ?order, fun i c h => by cases h⟩
  case entry => rw [resolve, entryOf_eq s hsorted e he]
  case default =>
    rw [resolve, (entryOf_none s c).mpr hnone]
    cases s.policy.defaultBand <;> rfl
  case order =>
    obtain ⟨has0, has1⟩ := e
    cases has0 <;> cases has1 <;> rfl

/-! ### SET_CHANNEL (O21) -/

theorem bandOf_val (band : Fin 4) : bandOf band.val = some band := by simp [bandOf]

theorem bandOf_outside {n : Nat} (h : 3 < n) : bandOf n = none := by
  rw [bandOf, dif_neg (by omega)]

theorem exists_band {n : Nat} (h : n ≤ 3) : ∃ b : Fin 4, b.val = n := ⟨⟨n, by omega⟩, rfl⟩

theorem isMux_iff (n : Nat) : isMux n = true ↔ 1 ≤ n ∧ n ≤ 4095 := by simp [isMux]

/-- SET_CHANNEL with values in range, by whether there is room for the channel (R30). -/
theorem takeSetChannel_inRange (s : State) {channel mux : Nat} (band : Fin 4) (hc : 1 ≤ channel ∧ channel ≤ 9999)
    (hm : 1 ≤ mux ∧ mux ≤ 4095) :
    takeSetChannel s channel mux band.val =
      if entryOf s channel = none ∧ 256 ≤ s.map.entries.length then refuse s .tableFull
      else
        accept (settle (markStaleIf (decide (entryOf s channel ≠ some ⟨channel, mux, band⟩))
          (setEntries s (putEntry ⟨channel, mux, band⟩ s.map.entries)))) false (boolByte (entryOf s channel).isNone) := by
  have hrange : (isChannel channel && isMux mux) = true := by
    rw [Bool.and_eq_true]
    exact ⟨(isChannel_iff channel).mpr hc, (isMux_iff mux).mpr hm⟩
  have hfull : ((entryOf s channel).isNone && decide (Config.mapPlaces ≤ s.map.entries.length)) = true ↔
      entryOf s channel = none ∧ 256 ≤ s.map.entries.length := by
    simp [Config.mapPlaces]
  have hstale : (entryOf s channel != some ⟨channel, mux, band⟩) = decide (entryOf s channel ≠ some ⟨channel, mux, band⟩) := by
    rw [Bool.eq_iff_iff]
    simp
  simp only [takeSetChannel, bandOf_val, hrange, if_true, hfull, hstale]

theorem takeSetChannel_outOfRange {s : State} {channel mux band : Nat}
    (h : channel = 0 ∨ 9999 < channel ∨ mux = 0 ∨ 4095 < mux ∨ 3 < band) :
    takeSetChannel s channel mux band = refuse s .badValue := by
  unfold takeSetChannel
  split
  · next b hb =>
    have hband : ¬ 3 < band := fun hout => by rw [bandOf_outside hout] at hb; cases hb
    have hrange : ¬ (isChannel channel && isMux mux) = true := by
      rw [Bool.and_eq_true, isChannel_iff, isMux_iff]
      omega
    rw [if_neg hrange]
  · rfl

theorem entryOf_setEntries_put (s : State) (e : ChannelEntry) (c : Nat) :
    entryOf (setEntries s (putEntry e s.map.entries)) c = if c = e.channel then some e else entryOf s c := by
  split
  · next hc => rw [hc]; exact find_put_self e s.map.entries
  · next hc => exact find_put e s.map.entries c hc

/-! ### REMOVE_CHANNEL (O21) -/

theorem entryOf_setEntries_remove (s : State) (channel c : Nat) :
    entryOf (setEntries s (removeEntry channel s.map.entries)) c = if c = channel then none else entryOf s c := by
  have hfind : entryOf (setEntries s (removeEntry channel s.map.entries)) c =
      s.map.entries.find? fun e => decide ((e.channel != channel) = true ∧ (e.channel == c) = true) := List.find?_filter ..
  rw [hfind]
  split
  · next hc =>
    rw [hc, List.find?_eq_none]
    simp
  · next hc =>
    refine congrArg (s.map.entries.find? ·) (funext fun e => ?_)
    by_cases he : e.channel = c
    · simp [he, hc]
    · simp [he]

theorem takeRemoveChannel_inRange (s : State) {channel : Nat} (hc : 1 ≤ channel ∧ channel ≤ 9999) :
    takeRemoveChannel s channel =
      if (entryOf s channel).isSome then
        accept (settle (markStale (setEntries s (removeEntry channel s.map.entries)))) false []
      else refuse s .notFound := by
  rw [takeRemoveChannel, if_pos ((isChannel_iff channel).mpr hc)]

/-! ### SET_BAND (O21) -/

theorem eligibleOf_code (e : EligibleSet) : eligibleOf (eligibleCode e) = some e := by
  obtain ⟨has0, has1⟩ := e
  cases has0 <;> cases has1 <;> rfl

theorem takeSetBand_outOfRange {s : State} {band eligible : Nat} (h : 3 < band ∨ 3 < eligible) :
    takeSetBand s band eligible = refuse s .badValue := by
  unfold takeSetBand
  split
  · next b e hb he =>
    rcases h with hout | hout
    · rw [bandOf_outside hout] at hb; cases hb
    · rw [eligibleOf, if_neg (by omega)] at he; cases he
  · rfl

theorem bandBytes_eq (b : Bands) :
    bandBytes b = [0, 1, 2, 3].map fun i => BitVec.ofNat 8 (eligibleCode (b.at i)) := rfl

theorem takeSetBand_inRange (s : State) (band : Fin 4) (set : EligibleSet) :
    takeSetBand s band.val (eligibleCode set) =
      accept (settle (markStaleIf (decide (s.map.bands.at band ≠ set)) (setBands s (s.map.bands.put band set)))) false
        (bandBytes (s.map.bands.put band set)) := by
  simp only [takeSetBand, bandOf_val, eligibleOf_code, bne_eq_decide_ne]

/-- Settles O21: each request by the values in range, and out of it. -/
theorem mapRequestsChangeTheMap : Obligations.MapRequestsChangeTheMap := by
  refine ⟨fun s channel mux band d ht => ⟨fun hout => ?setRefused, fun h1 h2 h3 h4 h5 hnew hfull => ?setFull⟩,
    fun s channel d ht => ⟨fun hout => ?removeRefused, fun h1 h2 hnone => ?removeMissing⟩,
    fun s band eligible d ht hout => ?bandRefused,
    fun s channel mux d band ht h1 h2 h3 h4 hroom => ?set, fun s channel d ht h1 h2 hsome => ?remove,
    fun s d band set ht => ?band⟩
  case setRefused =>
    exact refusedWith_of (r := .setChannel channel mux band) (exec_setChannel ht) (takeSetChannel_outOfRange hout)
  case setFull =>
    obtain ⟨b, rfl⟩ := exists_band h5
    refine refusedWith_of (r := .setChannel channel mux b.val) (exec_setChannel ht) ?_
    rw [takeSetChannel_inRange s b ⟨h1, h2⟩ ⟨h3, h4⟩, if_pos ⟨hnew, hfull⟩]
  case removeRefused =>
    refine refusedWith_of (r := .removeChannel channel) (exec_removeChannel ht) ?_
    rw [takeRemoveChannel, if_neg (by rw [isChannel_iff]; omega)]
  case removeMissing =>
    refine refusedWith_of (r := .removeChannel channel) (exec_removeChannel ht) ?_
    rw [takeRemoveChannel_inRange s ⟨h1, h2⟩, hnone]
    rfl
  case bandRefused => exact refusedWith_of (r := .setBand band eligible) (exec_setBand ht) (takeSetBand_outOfRange hout)
  case set =>
    have hfits : ¬ (entryOf s channel = none ∧ 256 ≤ s.map.entries.length) := by
      rintro ⟨hnone, hfull⟩
      rcases hroom with hsome | hlt
      · rw [hnone] at hsome; cases hsome
      · omega
    rw [exec_setChannel ht, takeSetChannel_inRange s band ⟨h1, h2⟩ ⟨h3, h4⟩, if_neg hfits, markStaleIf_eq]
    obtain ⟨t, hnext, hstate, hsettled, hreply⟩ :=
      completed_accept_settled (s := s) (.setChannel channel mux band.val) d false (boolByte (entryOf s channel).isNone)
        (x := { setEntries s (putEntry ⟨channel, mux, band⟩ s.map.entries) with
                planner := { s.planner with stale := s.planner.stale || decide (entryOf s channel ≠ some ⟨channel, mux, band⟩) } }) rfl
    have hentry (c : Nat) : entryOf t c = if c = channel then some ⟨channel, mux, band⟩ else entryOf s c := by
      rw [hstate, ← entryOf_setEntries_put s ⟨channel, mux, band⟩ c]
      rfl
    have hbyte : boolByte (entryOf s channel).isNone = [if (entryOf s channel).isSome then 0x00#8 else 0x01#8] := by
      cases entryOf s channel <;> rfl
    refine ⟨t, hnext, by rw [hstate]; rfl, (hentry channel).trans (if_pos rfl), fun c hc => (hentry c).trans (if_neg hc),
      by rw [hstate], hsettled, hbyte ▸ hreply⟩
  case remove =>
    rw [exec_removeChannel ht, takeRemoveChannel_inRange s ⟨h1, h2⟩, if_pos hsome]
    obtain ⟨t, hnext, hstate, hsettled, hreply⟩ :=
      completed_settled (s := s) (x := markStale (setEntries s (removeEntry channel s.map.entries))) (.removeChannel channel) d rfl
    have hentry (c : Nat) : entryOf t c = if c = channel then none else entryOf s c := by
      rw [hstate, ← entryOf_setEntries_remove s channel c]
      rfl
    exact ⟨t, hnext, by rw [hstate]; rfl, (hentry channel).trans (if_pos rfl), fun c hc => (hentry c).trans (if_neg hc),
      hsettled, hreply⟩
  case band =>
    rw [exec_setBand ht, takeSetBand_inRange, markStaleIf_eq]
    obtain ⟨t, hnext, hstate, hsettled, hreply⟩ :=
      completed_accept_settled (s := s) (.setBand band.val (eligibleCode set)) d false (bandBytes (s.map.bands.put band set))
        (x := { setBands s (s.map.bands.put band set) with
                planner := { s.planner with stale := s.planner.stale || decide (s.map.bands.at band ≠ set) } }) rfl
    have hbands : t.map.bands = s.map.bands.put band set := by rw [hstate]; rfl
    refine ⟨t, hnext, by rw [hstate]; rfl, fun i => ?_, by rw [hstate], hsettled, ?_⟩
    · rw [hbands, Bands.put_at]
    · rw [hbands, ← bandBytes_eq]
      exact hreply

end Sys2Proof.Machine
end

section
/-! PROOF. Tuner Holds: HOLD accepted (O22) and refused (O23), and RELEASE (O24). -/

namespace Sys2Proof.Machine

/-! ### HOLD by route, eligibility and running bookings (R38, R39) -/

theorem holdConflict_iff (s : State) (t : Tuner) (key : MuxKey) :
    holdConflict s t key = true ↔ (∃ e ∈ runningOn s t, runningKey e.2 ≠ some key) ∨ 3 < (runningOn s t).length + 1 := by
  simp [holdConflict, Config.streamPlaces, List.any_eq_true]

section inRange
variable {s : State} {channel : Nat} {T : Tuner} {kind : HoldKind} (hc : 1 ≤ channel ∧ channel ≤ 9999)
include hc

theorem takeHold_noRoute (hr : resolve s channel = none) :
    takeHold s (tunerCode T) channel (holdKindCode kind) = refuse s .noRoute := by
  simp only [takeHold, tunerOf_code, kindOf_code, (isChannel_iff channel).mpr hc, if_true, hr]

/-- HOLD with a route, by eligibility and the running bookings (R38, R39). -/
theorem takeHold_route {route : Route} (hr : resolve s channel = some route) :
    takeHold s (tunerCode T) channel (holdKindCode kind) =
      if route.eligible.has T then
        if kind = .firm ∧ holdConflict s T route.key then refuse s .tunerBusy
        else
          accept
            (settle (markStaleIf
              ((isFirm (s.holds.at T).hold || kind == .firm) &&
                (acceptedHold s (s.holds.at T).hold kind channel route.key).2 != .refreshed)
              (putHold s T ⟨some (acceptedHold s (s.holds.at T).hold kind channel route.key).1, .noDrop⟩)))
            false
            (oneByte (holdIndicationCode (acceptedHold s (s.holds.at T).hold kind channel route.key).2) ++
              holdBytes (acceptedHold s (s.holds.at T).hold kind channel route.key).1)
      else refuse s .notEligible := by
  simp only [takeHold, tunerOf_code, kindOf_code, (isChannel_iff channel).mpr hc, if_true, hr]

end inRange

theorem takeHold_outOfRange {s : State} {tuner channel kind : Nat}
    (h : 1 < tuner ∨ channel = 0 ∨ 9999 < channel ∨ 1 < kind) : takeHold s tuner channel kind = refuse s .badValue := by
  unfold takeHold
  split
  · next t k ht hk =>
    have htuner : tuner ≤ 1 := by
      match tuner with
      | 0 | 1 => omega
      | n + 2 => cases ht
    have hkind : kind ≤ 1 := by
      match kind with
      | 0 | 1 => omega
      | n + 2 => cases hk
    rw [if_neg (by rw [isChannel_iff]; omega)]
  · rfl

/-! ### HOLD refused (O23) -/

/-- Settles O23: the checks in their order. -/
theorem holdRefusalsInOrder : Obligations.HoldRefusalsInOrder := by
  refine ⟨fun s tuner channel kind d ht hout => ?values, fun s channel d T kind ht h1 h2 => ?checks⟩
  case values =>
    rw [exec_hold ht, takeHold_outOfRange hout]
    exact refused_next s (.hold tuner channel kind) d .badValue
  case checks =>
    obtain ⟨t, hnext, hrefused⟩ :=
      refused_of_answered (.hold (tunerCode T) channel (holdKindCode kind)) d
        (takeHold_answered s (tunerCode T) channel (holdKindCode kind))
    refine ⟨t, _, (exec_hold ht).trans hnext, fun hr => ?noRoute, fun route hr hnot => ?notEligible,
      fun route hr hhas hfirm hbusy => ?busy, fun hok => hrefused hok ?notAdjusted⟩
    case noRoute => rw [takeHold_noRoute ⟨h1, h2⟩ hr]; rfl
    case notEligible =>
      rw [takeHold_route ⟨h1, h2⟩ hr, if_neg (by rw [hnot]; exact Bool.false_ne_true)]
      rfl
    case busy =>
      rw [takeHold_route ⟨h1, h2⟩ hr, if_pos hhas, if_pos ⟨hfirm, (holdConflict_iff s T route.key).mpr hbusy⟩]
      rfl
    case notAdjusted =>
      cases hr : resolve s channel with
      | none =>
        rw [takeHold_noRoute ⟨h1, h2⟩ hr]
        exact fun h => by cases h
      | some route =>
        rw [takeHold_route ⟨h1, h2⟩ hr]
        split
        · split
          · exact fun h => by cases h
          · exact fun h => by cases h
        · exact fun h => by cases h

/-! ### HOLD accepted (O22) -/

theorem isFirm_eq (s : State) (T : Tuner) : isFirm (s.holds.at T).hold = (firmHold s T).isSome := by
  rw [isFirm, firmHold, Option.isSome_filter]

/-- The hold was refreshed: its kind and key stay (R40). -/
theorem acceptedHold_refreshed_iff (s : State) (old : Option Hold) (kind : HoldKind) (channel : Nat) (key : MuxKey) :
    ((acceptedHold s old kind channel key).2 != .refreshed) = !(old.any fun h => decide (h.kind = kind ∧ h.key = key)) := by
  cases old with
  | none => rfl
  | some h =>
    by_cases hsame : h.kind = kind ∧ h.key = key
    · simp [acceptedHold, hsame]
    · simp only [acceptedHold, if_neg hsame, Option.any_some, decide_eq_false hsame]
      rfl

/-- Settles O22: the table of R40, by the hold that was there. -/
theorem holdIsTaken : Obligations.HoldIsTaken := by
  intro s channel d route T kind ht h1 h2 hr hhas hfirm
  have hfree : ¬ (kind = .firm ∧ holdConflict s T route.key = true) := by
    rintro ⟨hkind, hconflict⟩
    obtain ⟨hkeys, hlength⟩ := hfirm hkind
    rcases (holdConflict_iff s T route.key).mp hconflict with ⟨e, he, hne⟩ | hfull
    · exact hne (hkeys e he)
    · omega
  obtain ⟨new, hnew⟩ : ∃ new, new = acceptedHold s (s.holds.at T).hold kind channel route.key := ⟨_, rfl⟩
  have hstale : ((isFirm (s.holds.at T).hold || kind == .firm) && new.2 != .refreshed) =
      (((firmHold s T).isSome || decide (kind = .firm)) &&
        !((s.holds.at T).hold.any fun h => decide (h.kind = kind ∧ h.key = route.key))) := by
    rw [hnew, acceptedHold_refreshed_iff, isFirm_eq]
    cases kind <;> rfl
  have htake := takeHold_route (T := T) (kind := kind) ⟨h1, h2⟩ hr
  rw [if_pos hhas, if_neg hfree, ← hnew, hstale, markStaleIf_eq] at htake
  obtain ⟨t, hnext, hstate, hsettled, hreply⟩ :=
    completed_accept_settled (s := s) (.hold (tunerCode T) channel (holdKindCode kind)) d false
      (oneByte (holdIndicationCode new.2) ++ holdBytes new.1)
      (x := { putHold s T ⟨some new.1, .noDrop⟩ with
              planner :=
                { s.planner with
                  stale := s.planner.stale ||
                    (((firmHold s T).isSome || decide (kind = .firm)) &&
                      !((s.holds.at T).hold.any fun h => decide (h.kind = kind ∧ h.key = route.key))) } }) rfl
  refine ⟨t, new.1, (exec_hold ht).trans (htake ▸ hnext), ?_, by rw [hstate]; rfl, fun u => ?_, by rw [hstate], hsettled, ?_⟩
  · rw [hnew]
    cases (s.holds.at T).hold with
    | none => rfl
    | some h =>
      simp only [acceptedHold]
      split <;> rfl
  · rw [hstate]
    exact PerTuner.put_at s.holds T u _
  · refine cast (congrArg (Replied s t 0x28#8 d .ok) ?_) hreply
    rw [hnew]
    cases (s.holds.at T).hold with
    | none => rfl
    | some h =>
      simp only [acceptedHold]
      split <;> rfl

/-! ### RELEASE (O24) -/

/-- Settles O24: the hold dropped, if there was one. -/
theorem releaseDropsTheHold : Obligations.ReleaseDropsTheHold := by
  refine ⟨fun s tuner d ht hout => ?refused, fun s d T ht => ?released⟩
  case refused =>
    refine refusedWith_of (r := .release tuner) (exec_release ht) ?_
    match tuner with
    | 0 | 1 => omega
    | n + 2 => rfl
  case released =>
    have htake : takeRelease s (tunerCode T) =
        accept (settle (markStaleIf (firmHold s T).isSome (dropHold s T .released))) false
          (oneByte (releasedKindCode ((s.holds.at T).hold.map fun h => h.kind))) := by
      simp only [takeRelease, tunerOf_code, isFirm_eq]
    obtain ⟨t, hnext, hstate, hsettled, hreply⟩ :=
      completed_accept_settled (s := s) (.release (tunerCode T)) d false
        (oneByte (releasedKindCode ((s.holds.at T).hold.map fun h => h.kind)))
        (x := markStaleIf (firmHold s T).isSome (dropHold s T .released)) (by simp)
    rw [markStaleIf_eq] at hstate
    refine ⟨t, (exec_release ht).trans (htake ▸ hnext), ?_, fun u => ?_, ?_, hsettled, ?_⟩
    · rw [hstate]
      unfold dropHold
      split <;> rfl
    · rw [hstate]
      exact dropHold_at s T u .released
    · rw [hstate]
      unfold dropHold
      split <;> rfl
    · refine cast (congrArg (Replied s t 0x29#8 d .ok) ?_) hreply
      cases (s.holds.at T).hold with
      | none => rfl
      | some h =>
        obtain ⟨kind, _, _, _⟩ := h
        cases kind <;> rfl

end Sys2Proof.Machine
end

section
/-! PROOF. The Link Table and the Announcement Queue: the requests that change one link (O25), REMOVE_LINK (O26), and
ANNOUNCE (O27). -/

namespace Sys2Proof.Machine

/-! ### The checks of link requests -/

theorem linkStatusOf_code (st : LinkStatus) : linkStatusOf (linkStatusCode st) = some st := by cases st <;> rfl

theorem linkStatusOf_outside {n : Nat} (h : 1 < n) : linkStatusOf n = none := by
  match n with
  | 0 | 1 => omega
  | n + 2 => rfl

theorem exists_linkStatus {n : Nat} (h : n ≤ 1) : ∃ st, linkStatusCode st = n := by
  match n with
  | 0 => exact ⟨.active, rfl⟩
  | 1 => exact ⟨.dormant, rfl⟩
  | n + 2 => omega

theorem askedStatus_code (asked : Option LinkStatus) : askedStatus (asked.map linkStatusCode) = some (asked.getD .active) := by
  cases asked with
  | none => rfl
  | some st => exact linkStatusOf_code st

theorem exists_askedStatus {status : Option Nat} (h : ∀ a ∈ status.toList, a ≤ 1) :
    ∃ asked : Option LinkStatus, status = asked.map linkStatusCode := by
  cases status with
  | none => exact ⟨none, rfl⟩
  | some a =>
    obtain ⟨st, hst⟩ := exists_linkStatus (h a (List.mem_singleton_self a))
    exact ⟨some st, congrArg some hst.symm⟩

/-! ### ADD_LINK -/

section addLink
variable {s : State} {series : Nat} {f : LinkFields} (asked : Option LinkStatus) (hf : LinkFieldsAccepted f)
  (hseries : series ≠ 0)

theorem takeAddLink_refused {status : Option Nat}
    (h : ¬ LinkFieldsAccepted f ∨ series = 0 ∨ ∃ a ∈ status.toList, 1 < a) :
    takeAddLink s series status f = refuse s .badValue := by
  unfold takeAddLink
  split
  · next c st policy hc hst hpolicy =>
    rcases h with hbad | hzero | ⟨a, ha, hout⟩
    · rw [checkLinkFields_bad hbad] at hc; cases hc
    · rw [if_pos hzero]
    · rw [Option.mem_toList.mp ha, askedStatus, linkStatusOf_outside hout] at hst; cases hst
  · rfl

include hf hseries

theorem takeAddLink_full (hfull : lowestFreeLink s = none) :
    takeAddLink s series (asked.map linkStatusCode) f = refuse s .tableFull := by
  obtain ⟨hfields, hpolicy⟩ := checkLinkFields_ok hf
  simp only [takeAddLink, hfields, askedStatus_code, hpolicy, if_neg hseries, hfull]

/-- ADD_LINK with accepted values and a free slot, by the uniqueness of the series id (R50). -/
theorem takeAddLink_free {slot : Nat} (hslot : lowestFreeLink s = some slot) :
    takeAddLink s series (asked.map linkStatusCode) f =
      if (linkOfSeries s series).isSome then refuse s .duplicate
      else
        accept
          (settle (occupyLink s slot
            (newLink series (asked.getD .active) (if f.policy = 0 then .newOnly else .all) (clampedLink f))))
          (decide (clampedLink f ≠ f)) (handleBytes ⟨slot, tagAfter (linkTagAt s slot)⟩) := by
  obtain ⟨hfields, hpolicy⟩ := checkLinkFields_ok hf
  simp only [takeAddLink, hfields, askedStatus_code, hpolicy, if_neg hseries, hslot, bne_eq_decide_ne]

end addLink

theorem linkOfSeries_isSome_iff (s : State) (series : Nat) :
    (linkOfSeries s series).isSome = true ↔ ∃ e ∈ occupiedLinks s, e.2.seriesId = series := by
  simp [linkOfSeries, List.find?_isSome]

theorem lowestFreeLink_eq_none (s : State) : lowestFreeLink s = none ↔ ∀ sl ∈ s.links, sl.link.isSome = true := by
  simp [lowestFreeLink, List.findIdx?_eq_none_iff, Option.isSome_iff_ne_none]

theorem addLink_refusals {s : State} {series : Nat} {status : Option Nat} {f : LinkFields} {d : Bool}
    (ht : Taking s (.addLink series status f) d) :
    (¬ LinkFieldsAccepted f ∨ series = 0 ∨ (∃ a ∈ status.toList, 1 < a) →
      RefusedWith s (.addLink series status f) d .badValue) ∧
    (LinkFieldsAccepted f → series ≠ 0 → (∀ a ∈ status.toList, a ≤ 1) →
      ((∀ sl ∈ s.links, sl.link.isSome = true) → RefusedWith s (.addLink series status f) d .tableFull) ∧
      ((∃ sl ∈ s.links, sl.link = none) → (∃ e ∈ occupiedLinks s, e.2.seriesId = series) →
        RefusedWith s (.addLink series status f) d .duplicate)) := by
  refine ⟨fun hbad => refusedWith_of (r := .addLink series status f) (exec_addLink ht) (takeAddLink_refused hbad), ?_⟩
  intro hf hseries hstatus
  obtain ⟨asked, rfl⟩ := exists_askedStatus hstatus
  refine ⟨fun hfull => ?_, fun ⟨sl, hsl, hfree⟩ hcarried => ?_⟩
  · exact refusedWith_of (r := .addLink series _ f) (exec_addLink ht)
      (takeAddLink_full asked hf hseries ((lowestFreeLink_eq_none s).mpr hfull))
  · obtain ⟨slot, hslot⟩ : ∃ slot, lowestFreeLink s = some slot := by
      rw [← Option.ne_none_iff_exists', Ne, lowestFreeLink_eq_none]
      intro hall
      simpa [hfree] using hall sl hsl
    refine refusedWith_of (r := .addLink series _ f) (exec_addLink ht) ?_
    rw [takeAddLink_free asked hf hseries hslot, if_pos ((linkOfSeries_isSome_iff s series).mpr hcarried)]

/-! ### AMEND_LINK, SET_LINK_STATUS and READ_LINK -/

/-- A request that changes the link its handle names, and no more (R51, R52, R56). -/
theorem completed_updateLink {s : State} {h : Handle} {l : Link} (f : Link → Link) (hn : NamesLink s h l) (r : Request)
    (d adjusted : Bool) (results : List Byte) :
    ∃ t, completed r d (accept (settle (updateLink s h.slot f)) adjusted results) = .next t ∧
      t = { s with links := t.links, port := t.port, out := t.out } ∧ LinksAgreeBut h.slot s t ∧
      HoldsLink s t h.slot (f l) ∧ OutputsSettled t ∧ Replied s t (kindOf r) d (acceptedCode adjusted) results := by
  obtain ⟨t, hnext, hstate, hsettled, hreply⟩ :=
    completed_accept_settled (s := s) (x := updateLink s h.slot f) r d adjusted results rfl
  have hlinks : t.links = (updateLink s h.slot f).links := by rw [hstate]
  refine ⟨t, hnext, by rw [hstate]; rfl, fun i hi => ?_, ?_, hsettled, hreply⟩
  · rw [hlinks]; exact updateLink_agree s h.slot f i hi
  · unfold HoldsLink
    rw [hlinks]
    exact updateLink_record f (namesLink_at hn)

theorem liveCount_eq (s : State) (h : Handle) :
    liveCount s h = (occupied s).countP fun e => decide (e.2.link = some h ∧ e.2.state.isFinished = false) := by
  rw [liveCount, bookingsOf, List.countP_filter]
  exact congrArg (fun p => List.countP p (occupied s))
    (funext fun e => by rw [Bool.eq_iff_iff]; simp [BookingState.isLive, and_comm])

/-- Settles O25: the refusals of each request, and the one link it changes. -/
theorem linkRequestsChangeOneLink : Obligations.LinkRequestsChangeOneLink := by
  refine ⟨fun s series status f d ht => addLink_refusals ht,
    fun s h f d ht => ⟨fun hbad => ?amendValues, fun c hf hc => ?amendHandle⟩,
    fun s h status d ht => ⟨fun hout => ?statusValue, fun c hin hc => ?statusHandle⟩,
    fun s h d c ht hc => ?readHandle,
    fun s series f d slot asked ht hf hseries hlength hfree hbelow hnew => ?add,
    fun s h f d l ht hf hn => ?amend, fun s h d l st ht hn => ?status, fun s h d l ht hn => ?read⟩
  case amendValues =>
    refine refusedWith_of (r := .amendLink h f) (exec_amendLink ht) ?_
    simp only [takeAmendLink, checkLinkFields_bad hbad]
  case amendHandle =>
    refine refusedWith_of (r := .amendLink h f) (exec_amendLink ht) ?_
    obtain ⟨hfields, hpolicy⟩ := checkLinkFields_ok hf
    simp only [takeAmendLink, hfields, hpolicy, checkLink_refused hc]
  case statusValue =>
    refine refusedWith_of (r := .setLinkStatus h status) (exec_setLinkStatus ht) ?_
    simp only [takeSetLinkStatus, linkStatusOf_outside hout]
  case statusHandle =>
    obtain ⟨st, rfl⟩ := exists_linkStatus hin
    refine refusedWith_of (r := .setLinkStatus h _) (exec_setLinkStatus ht) ?_
    simp only [takeSetLinkStatus, linkStatusOf_code, checkLink_refused hc]
  case readHandle =>
    refine refusedWith_of (r := .readLink h) (exec_readLink ht) ?_
    simp only [takeReadLink, checkLink_refused hc]
  case add =>
    have hslot : lowestFreeLink s = some slot := (lowestFreeLink_eq_some s slot).mpr ⟨hlength, hfree, hbelow⟩
    have hunique : ¬ (linkOfSeries s series).isSome = true := by
      rw [linkOfSeries_isSome_iff]
      rintro ⟨e, he, hid⟩
      exact hnew e he hid
    have htag : tagAfter (linkTagAt s slot) = if linkTagAt s slot < 255 then linkTagAt s slot + 1 else 1 := by
      unfold tagAfter
      split <;> split <;> omega
    rw [exec_addLink ht, takeAddLink_free asked hf hseries hslot, if_neg hunique]
    obtain ⟨t, hnext, hstate, hsettled, hreply⟩ :=
      completed_accept_settled (s := s)
        (x := occupyLink s slot
          (newLink series (asked.getD .active) (if f.policy = 0 then .newOnly else .all) (clampedLink f)))
        (.addLink series (asked.map linkStatusCode) f) d (decide (clampedLink f ≠ f))
        (handleBytes ⟨slot, tagAfter (linkTagAt s slot)⟩) rfl
    exact ⟨t, _, hnext, htag, hstate, hsettled, hreply⟩
  case amend =>
    obtain ⟨hfields, hpolicy⟩ := checkLinkFields_ok hf
    have htake : takeAmendLink s h f =
        accept (settle (updateLink s h.slot (amendedLink (if f.policy = 0 then .newOnly else .all) (clampedLink f))))
          (decide (clampedLink f ≠ f)) [] := by
      simp only [takeAmendLink, hfields, hpolicy, namesLink_check hn, bne_eq_decide_ne]
    rw [exec_amendLink ht, htake]
    exact completed_updateLink _ hn (.amendLink h f) d _ []
  case status =>
    rw [exec_setLinkStatus ht]
    simp only [takeSetLinkStatus, linkStatusOf_code, namesLink_check hn]
    exact completed_updateLink _ hn (.setLinkStatus h _) d false _
  case read =>
    rw [exec_readLink ht]
    simp only [takeReadLink, namesLink_check hn, scheduledCount_eq, liveCount_eq]
    exact completed_updateLink _ hn (.readLink h) d false _

/-! ### REMOVE_LINK (O26) -/

theorem removeLinkFrom_keep (h : Handle) : removeLinkFrom h false = unlinkedSlot h := by
  funext ⟨tag, booking⟩
  cases booking with
  | none => rfl
  | some b =>
    by_cases hl : b.link = some h
    · simp [removeLinkFrom, unlinkedSlot, hl]
    · simp [removeLinkFrom, unlinkedSlot, hl]

theorem removeLinkFrom_withdraw (h : Handle) : removeLinkFrom h true = withdrawnSlot h := by
  funext ⟨tag, booking⟩
  cases booking with
  | none => rfl
  | some b =>
    by_cases hl : b.link = some h
    · by_cases hst : b.state = .scheduled
      · simp [removeLinkFrom, withdrawnSlot, hl, hst]
      · simp [removeLinkFrom, withdrawnSlot, hl, hst]
    · simp [removeLinkFrom, withdrawnSlot, hl]

/-- The bookings of a link that are not SCHEDULED, which keep their slots (R55). -/
theorem unscheduledCount_eq (s : State) (h : Handle) :
    (bookingsOf s h).length - scheduledCount s h =
      (occupied s).countP fun e => decide (e.2.link = some h ∧ e.2.state ≠ .scheduled) := by
  have hsplit := (bookingsOf s h).length_eq_countP_add_countP fun e => e.2.state == .scheduled
  have hrest : ((bookingsOf s h).countP fun e => !(e.2.state == .scheduled)) =
      (occupied s).countP fun e => decide (e.2.link = some h ∧ e.2.state ≠ .scheduled) := by
    rw [bookingsOf, List.countP_filter]
    exact congrArg (fun p => List.countP p (occupied s)) (funext fun e => by rw [Bool.eq_iff_iff]; simp [and_comm])
  rw [← hrest, scheduledCount]
  simp only [Bool.not_eq_true, Bool.decide_eq_false] at hsplit
  omega

theorem takeRemoveLink_undefined {s : State} {h : Handle} {disposal : Nat} (hd : 1 < disposal) :
    takeRemoveLink s h disposal = refuse s .badValue := by
  match disposal with
  | 0 | 1 => omega
  | n + 2 => rfl

theorem takeRemoveLink_refused {s : State} {h : Handle} {disposal : Nat} {c : ReplyCode} (hd : disposal ≤ 1)
    (hc : linkRefusal s h = some c) : takeRemoveLink s h disposal = refuse s c := by
  match disposal with
  | 0 | 1 => simp only [takeRemoveLink, checkLink_refused hc]
  | n + 2 => omega

theorem removeLink_links_agree (s : State) (h : Handle) (withdraw : Bool) :
    LinksAgreeBut h.slot s (removeLink s h withdraw) := fun i hi => freeLink_agree _ _ i hi

theorem removeLink_freed {s : State} {h : Handle} {l : Link} (hn : NamesLink s h l) (withdraw : Bool) :
    (removeLink s h withdraw).links[h.slot]? = some ⟨linkTagAt s h.slot, none⟩ := by
  rw [removeLink, freeLink_slot, if_pos rfl]
  simp [namesLink_slot hn, linkTagAt]

theorem removeLink_bookings (s : State) (h : Handle) (withdraw : Bool) (i : Nat) :
    (removeLink s h withdraw).bookings[i]? = (s.bookings[i]?).map (removeLinkFrom h withdraw) := List.getElem?_map

/-- Settles O26: the disposal decides what becomes of the bookings of the link. -/
theorem removeLinkDealsWithItsBookings : Obligations.RemoveLinkDealsWithItsBookings := by
  refine ⟨fun s h disposal d ht hd i hi => ?undefined, fun s h disposal d c ht hd hc => ?refused,
    fun s h d l ht hn => ?keep, fun s h d l ht hn => ?withdraw⟩
  case undefined =>
    have hexec : exec i s = completed (.removeLink h disposal) d (refuse s .badValue) := by
      rw [← takeRemoveLink_undefined hd]
      rcases hi with rfl | rfl
      · exact exec_removeLinkKeep ht (by omega)
      · exact exec_removeLinkWithdraw ht (by omega)
    rw [hexec]
    exact refused_next s (.removeLink h disposal) d .badValue
  case refused =>
    refine refusedWith_of (r := .removeLink h disposal) ?_ (takeRemoveLink_refused hd hc)
    match disposal with
    | 0 => exact exec_removeLinkKeep ht (by omega)
    | 1 => exact exec_removeLinkWithdraw ht (by omega)
    | n + 2 => omega
  case keep =>
    have hexec : exec .removeLinkKeep s = completed (.removeLink h 0) d
        (accept (settle (removeLink s h false)) false (oneByte (bookingsOf s h).length)) := by
      rw [exec_removeLinkKeep ht (by omega)]
      simp only [takeRemoveLink, namesLink_check hn]
    obtain ⟨t, hnext, hstate, hsettled, hreply⟩ :=
      completed_accept_settled (s := s) (x := removeLink s h false) (.removeLink h 0) d false
        (oneByte (bookingsOf s h).length) rfl
    have hlinks : t.links = (removeLink s h false).links := by rw [hstate]
    have hbookings : t.bookings = (removeLink s h false).bookings := by rw [hstate]
    refine ⟨t, hexec.trans hnext, by rw [hstate]; rfl, fun i hi => ?_, ?_, fun i => ?_, hsettled, ?_⟩
    · rw [hlinks]; exact removeLink_links_agree s h false i hi
    · rw [hlinks]; exact removeLink_freed hn false
    · rw [hbookings, removeLink_bookings, removeLinkFrom_keep]
    · rw [← bookingsOf_count]; exact hreply
  case withdraw =>
    have hexec : exec .removeLinkWithdraw s = completed (.removeLink h 1) d
        (accept (settle (markStale (removeLink s h true))) false
          (oneByte (scheduledCount s h) ++ oneByte ((bookingsOf s h).length - scheduledCount s h))) := by
      rw [exec_removeLinkWithdraw ht (by omega)]
      simp only [takeRemoveLink, namesLink_check hn]
    obtain ⟨t, hnext, hstate, hsettled, hreply⟩ :=
      completed_accept_settled (s := s) (x := markStale (removeLink s h true)) (.removeLink h 1) d false
        (oneByte (scheduledCount s h) ++ oneByte ((bookingsOf s h).length - scheduledCount s h)) rfl
    have hlinks : t.links = (removeLink s h true).links := by rw [hstate]; rfl
    have hbookings : t.bookings = (removeLink s h true).bookings := by rw [hstate]; rfl
    refine ⟨t, hexec.trans hnext, by rw [hstate]; rfl, fun i hi => ?_, ?_, fun i => ?_, hsettled, ?_⟩
    · rw [hlinks]; exact removeLink_links_agree s h true i hi
    · rw [hlinks]; exact removeLink_freed hn true
    · rw [hbookings, removeLink_bookings, removeLinkFrom_withdraw]
    · rw [← scheduledCount_eq, ← unscheduledCount_eq]; exact hreply

/-! ### ANNOUNCE (O27) -/

theorem runningStatusOf_code (st : RunningStatus) : runningStatusOf (runningStatusCode st) = some st := by cases st <;> rfl

theorem exists_runningStatus {n : Nat} (h : n ≤ 2) : ∃ st, runningStatusCode st = n := by
  match n with
  | 0 => exact ⟨.unknown, rfl⟩
  | 1 => exact ⟨.running, rfl⟩
  | 2 => exact ⟨.notRunning, rfl⟩
  | n + 3 => omega

theorem runningStatusOf_outside {n : Nat} (h : 2 < n) : runningStatusOf n = none := by
  match n with
  | 0 | 1 | 2 => omega
  | n + 3 => rfl

/-- The announcement that the accepted values of ANNOUNCE make (R62). -/
def announced (f : AnnounceFields) (event : Nat) (status : RunningStatus) : Announcement :=
  { channel := f.channel, event := event, start := f.start, duration := max 60 (min 86400 f.duration), series := f.series,
    episode := f.episode, isRepeat := f.isRepeat, premiere := f.premiere, status := status }

theorem checkAnnounce_ok {f : AnnounceFields} {event : Nat} {status : RunningStatus}
    (hchannel : 1 ≤ f.channel ∧ f.channel ≤ 9999) (hevent : f.event = some event) (hduration : f.duration ≠ 0)
    (hseries : f.series ≠ some 0) (hepisode : f.episode ≠ some 0) (hstatus : runningStatusCode status = f.status) :
    checkAnnounce f = some (announced f event status) := by
  simp only [checkAnnounce, hevent, ← hstatus, runningStatusOf_code]
  rw [if_pos]
  · rfl
  · simp [(isChannel_iff f.channel).mpr hchannel, hduration, idAllowed, hseries, hepisode]

theorem checkAnnounce_bad {f : AnnounceFields}
    (h : ¬ ((1 ≤ f.channel ∧ f.channel ≤ 9999) ∧ f.event.isSome = true ∧ f.duration ≠ 0 ∧ f.series ≠ some 0 ∧
      f.episode ≠ some 0 ∧ f.status ≤ 2)) : checkAnnounce f = none := by
  unfold checkAnnounce
  split
  · next event status hevent hstatus =>
    rw [if_neg]
    intro hok
    simp only [Bool.and_eq_true, isChannel_iff, idAllowed, bne_iff_ne] at hok
    obtain ⟨⟨⟨hchannel, hduration⟩, hseries⟩, hepisode⟩ := hok
    refine h ⟨hchannel, by rw [hevent]; rfl, hduration, hseries, hepisode, Nat.not_lt.mp fun hout => ?_⟩
    rw [runningStatusOf_outside hout] at hstatus
    cases hstatus
  · rfl

/-- Settles O27: the values, and then the places of the queue, decide. -/
theorem announceJoinsTheTail : Obligations.AnnounceJoinsTheTail := by
  intro s f d ht
  rw [exec_announce ht]
  split
  · next hok =>
    obtain ⟨hchannel, hevent, hduration, hseries, hepisode, hstatus⟩ := hok
    obtain ⟨event, hevent⟩ := Option.isSome_iff_exists.mp hevent
    obtain ⟨status, hstatus⟩ := exists_runningStatus hstatus
    have hcheck := checkAnnounce_ok hchannel hevent hduration hseries hepisode hstatus
    split
    · next hroom =>
      have htake : takeAnnounce s f = accept { s with queue := s.queue ++ [announced f event status] }
          (decide (max 60 (min 86400 f.duration) ≠ f.duration)) (oneByte (s.queue.length + 1)) := by
        simp only [takeAnnounce, hcheck, bne_eq_decide_ne]
        exact if_neg (Nat.not_le.mpr hroom)
      rw [htake]
      obtain ⟨t, hnext, hstate, hreply⟩ := completed_accept (s := s)
        (x := { s with queue := s.queue ++ [announced f event status] }) (.announce f) d
        (decide (max 60 (min 86400 f.duration) ≠ f.duration)) (oneByte (s.queue.length + 1)) rfl
      refine ⟨t, hnext, by rw [hstate], ⟨announced f event status, by rw [hstate], ?_⟩, hreply⟩
      exact ⟨rfl, hevent.symm, rfl, rfl, rfl, rfl, rfl, rfl, hstatus⟩
    · next hfull =>
      have htake : takeAnnounce s f = refuse s .queueFull := by
        simp only [takeAnnounce, hcheck]
        exact if_pos (Nat.not_lt.mp hfull)
      rw [htake]
      obtain ⟨t, hnext, hstate, hreply⟩ := refused_next s (.announce f) d .queueFull
      exact ⟨t, hnext, by rw [hstate], by rw [hstate], hreply⟩
  · next hbad =>
    have htake : takeAnnounce s f = refuse s .badValue := by simp only [takeAnnounce, checkAnnounce_bad hbad]
    rw [htake]
    obtain ⟨t, hnext, hstate, hreply⟩ := refused_next s (.announce f) d .badValue
    exact ⟨t, hnext, by rw [hstate], by rw [hstate], hreply⟩

end Sys2Proof.Machine
end

section
/-! PROOF. CLEAR_ALL (O49), the Station Clock's counts, ticks and marks (O45, O46), and the requests that read (O47). -/

namespace Sys2Proof.Machine

/-! ### CLEAR_ALL (O49) -/

theorem occupied_eq_nil {s : State} (h : ∀ sl ∈ s.bookings, sl.booking = none) : occupied s = [] := by
  refine List.eq_nil_iff_forall_not_mem.mpr fun e he => ?_
  have hslot := (mem_occupied s e.1 e.2).mp he
  cases h _ (List.mem_of_getElem? hslot)

theorem occupiedLinks_eq_nil {s : State} (h : ∀ sl ∈ s.links, sl.link = none) : occupiedLinks s = [] := by
  refine List.eq_nil_iff_forall_not_mem.mpr fun e he => ?_
  have hslot := (mem_occupiedLinks s e.1 e.2).mp he
  cases h _ (List.mem_of_getElem? hslot)

/-- With no booking and no link, CLOCK is the one cause that can be asserted, and no tuner records (R150, R182). -/
theorem outputs_of_empty {s : State} (hbookings : occupied s = []) (hlinks : occupiedLinks s = []) :
    (deriveOutputs s).rec0 = false ∧ (deriveOutputs s).rec1 = false ∧
      (deriveOutputs s).causes = ⟨false, false, false, false, !s.clock.valid || s.clock.stepped, false⟩ := by
  simp [deriveOutputs, recLine, causeLevels, yieldLevel, hbookings, hlinks]

/-- CLEAR_ALL, before the holds are dropped and the levels derived. -/
def emptied (s : State) : State :=
  { s with
    bookings := s.bookings.map fun sl => { sl with booking := none }
    links := s.links.map fun sl => { sl with link := none }
    queue := []
    planner := clearPlanner s.planner }

theorem clearAll_eq (s : State) : clearAll s = settle { emptied s with holds := (dropHolds (emptied s) .released).holds } := by
  rw [← dropHolds_frame]
  rfl

/-- Settles O49: the tables are emptied, and the levels are those of empty tables. -/
theorem clearAllEmptiesTheTables : Obligations.ClearAllEmptiesTheTables := by
  intro s d ht
  rw [exec_clearAll ht, clearAll_eq]
  obtain ⟨t, hnext, hstate, hsettled, hreply⟩ :=
    completed_accept_settled (s := s) (x := { emptied s with holds := (dropHolds (emptied s) .released).holds })
      .clearAll d false [] rfl
  have hbookings : occupied t = [] :=
    occupied_eq_nil fun sl hsl => by
      rw [hstate] at hsl
      obtain ⟨_, _, rfl⟩ := List.mem_map.mp hsl
      rfl
  have hlinks : occupiedLinks t = [] :=
    occupiedLinks_eq_nil fun sl hsl => by
      rw [hstate] at hsl
      obtain ⟨_, _, rfl⟩ := List.mem_map.mp hsl
      rfl
  have hclock : t.clock = s.clock := by rw [hstate]; rfl
  have hout : t.out = deriveOutputs t := hsettled
  obtain ⟨hrec0, hrec1, hcauses⟩ := outputs_of_empty hbookings hlinks
  refine ⟨t, hnext, by rw [hstate]; rfl, fun T => ?_, hsettled, ?_, ?_, ?_, hreply⟩
  · rw [hstate]; exact dropHolds_at (emptied s) T .released
  · rw [hout, hrec0]
  · rw [hout, hrec1]
  · rw [hout, hcauses, hclock]

/-! ### Crystal counts and ticks (O45) -/

theorem slotAtClock_eq (s : State) (sl : BookingSlot) :
    slotAtClock s sl = { sl with booking := sl.booking.map (reachClosePoint s) } := by
  obtain ⟨tag, booking⟩ := sl
  cases booking with
  | none => rfl
  | some b => unfold slotAtClock reachClosePoint; cases b.running <;> rfl

/-- Whether a point is reached turns on the clock alone, so the sweep may read any state with that clock. -/
theorem slotAtClock_of_clock {s t : State} (h : t.clock = s.clock) : slotAtClock t = slotAtClock s := by
  funext ⟨tag, booking⟩
  cases booking with
  | none => rfl
  | some b => simp only [slotAtClock, reached, h]

theorem reachClosePoints_eq {s t : State} (h : t.clock = s.clock) :
    reachClosePoints s = { s with bookings := s.bookings.map (slotAtClock t) } := by
  rw [slotAtClock_of_clock h, funext (slotAtClock_eq s)]
  rfl

theorem satAdd_one (n : Nat) : satAdd n 1 = if n < 4294967295 then n + 1 else 4294967295 := by
  unfold satAdd Config.topOfTime
  split <;> omega

/-- Settles O45: a count waits for a due tick, a tick for due Timer events. -/
theorem ticksAdvanceTheClock : Obligations.TicksAdvanceTheClock := by
  refine ⟨fun s hdue => ⟨fun hroom => ?count, fun hfull => ?tickDue⟩, fun s hdue => ?waitingCount, fun s hdue => ?waitingTick,
    fun s hdue => ?tick⟩
  case count =>
    simp only [exec, execCrystalCount, countCrystal, hdue, Bool.false_eq_true, if_false, if_neg (Nat.not_le.mpr hroom)]
    rfl
  case tickDue =>
    simp only [exec, execCrystalCount, countCrystal, hdue, Bool.false_eq_true, if_false, if_pos hfull]
    rfl
  case waitingCount => exact if_pos hdue
  case waitingTick => exact if_pos hdue
  case tick =>
    refine ⟨settle (reachClosePoints (setClock s (tickClock s.clock))), slewAfterTick s.clock.secondSlew s.clock.slew,
      if_neg (by rw [hdue]; exact Bool.false_ne_true), rfl, ?_, rfl⟩
    have hclock : tickClock s.clock =
        { s.clock with
          seconds := if s.clock.seconds < 4294967295 then s.clock.seconds + 1 else 4294967295
          elapsed := (s.clock.elapsed + 1) % 4294967296, divider := 0, tickDue := false
          slew := slewAfterTick s.clock.secondSlew s.clock.slew
          secondSlew := (slewAfterTick s.clock.secondSlew s.clock.slew).sign
          secondLength :=
            (32768 + s.clock.trim - 512 * (slewAfterTick s.clock.secondSlew s.clock.slew).sign).toNat } := by
      rw [← satAdd_one, ← slewSign_eq]
      rfl
    rw [← hclock]
    have hreached := reachClosePoints_eq (s := setClock s (tickClock s.clock))
      (t := settle (reachClosePoints (setClock s (tickClock s.clock)))) rfl
    exact congrArg settle hreached

/-! ### SET_TIME (O46) -/

theorem yesNoOf_code (b : Bool) : yesNoOf (boolCode b) = some b := by cases b <;> rfl

theorem yesNoOf_outside {n : Nat} (h : 1 < n) : yesNoOf n = none := by
  match n with
  | 0 | 1 => omega
  | n + 2 => rfl

theorem takeSetTime_refused {s : State} {seconds part force : Nat} (h : 63 < part ∨ 1 < force) :
    takeSetTime s seconds part force = refuse s .badValue := by
  unfold takeSetTime
  split
  · next f hforce =>
    rcases h with hpart | hout
    · exact if_neg (Nat.not_le.mpr hpart)
    · rw [yesNoOf_outside hout] at hforce; cases hforce
  · rfl

theorem markKind_of_near {c : Clock} {force : Bool} {d : Int} (hvalid : c.valid = true) (hforce : force = false)
    (hlow : -128 ≤ d) (hhigh : d ≤ 128) : markKind c force d = .slewed := by
  simp [markKind, hvalid, hforce, Int.not_lt.mpr hlow, Int.not_lt.mpr hhigh]

theorem markKind_of_far {c : Clock} {force : Bool} {d : Int}
    (h : c.valid = false ∨ force = true ∨ d < -128 ∨ 128 < d) :
    markKind c force d = if c.valid then .stepped else .validated := by
  unfold markKind
  cases hvalid : c.valid with
  | false => rfl
  | true =>
    have hfar : (force || decide (d < -128) || decide (128 < d)) = true := by simpa [hvalid, or_assoc] using h
    simp [hfar]

/-- A mark taken as a step, whether it validates the clock or moves it (R163). -/
theorem takeMark_step (s : State) (valid : Bool) (seconds part : Nat) (d : Int) :
    takeMark s (if valid then .stepped else .validated) seconds part d =
      settle (reachClosePoints (markStale (setClock s (stepClock s.clock seconds part)))) := by
  cases valid <;> rfl

theorem saturateDifference_near {d : Int} (hlow : -128 ≤ d) (hhigh : d ≤ 128) : saturateDifference d = d := by
  unfold saturateDifference
  omega

theorem stepClock_eq (c : Clock) (seconds part : Nat) :
    stepClock c seconds part =
      { c with
        valid := true, seconds := seconds, divider := 512 * part, slew := 0, tickDue := false
        secondSlew := 0, secondLength := (32768 + c.trim).toNat, stepped := c.valid || c.stepped } := by
  have hlength : lengthFor c.trim (slewSign 0) = (32768 + c.trim).toNat := by
    simp [lengthFor, slewSign_eq, Config.crystalCounts]
  rw [← hlength]
  rfl

/-- Settles O46: a small difference slews a valid clock, and any other mark steps it. -/
theorem setTimeStepsOrSlews : Obligations.SetTimeStepsOrSlews := by
  refine ⟨fun s seconds part force d D ht hpart hD => ?taken, fun s seconds part force d ht hbad => ?refused⟩
  case refused =>
    rw [exec_setTime ht, takeSetTime_refused hbad]
    exact refused_next s (.setTime seconds part force) d .badValue
  case taken =>
    have hdiff : markDifference s.clock seconds part = D := by
      rw [hD, markDifference, timeInSixtyFourths, fraction, Config.sixtyFourth, Nat.mul_comm seconds, Nat.mul_comm s.clock.seconds]
    have htake : takeSetTime s seconds part (boolCode force) =
        accept (takeMark s (markKind s.clock force D) seconds part D) false
          (oneByte (markKindCode (markKind s.clock force D)) ++ signedFourBytes (saturateDifference D)) := by
      simp only [takeSetTime, yesNoOf_code, if_pos hpart, hdiff]
    rw [exec_setTime ht, htake]
    by_cases hnear : s.clock.valid = true ∧ force = false ∧ -128 ≤ D ∧ D ≤ 128
    · obtain ⟨hvalid, hforce, hlow, hhigh⟩ := hnear
      rw [markKind_of_near hvalid hforce hlow hhigh, saturateDifference_near hlow hhigh]
      obtain ⟨t, hnext, hstate, hreply⟩ := completed_accept (s := s)
        (x := setClock s { s.clock with slew := D }) (.setTime seconds part (boolCode force)) d false
        (oneByte (markKindCode .slewed) ++ signedFourBytes D) rfl
      refine ⟨t, hnext, fun _ _ _ _ => ⟨hstate, hreply⟩, fun hfar => ?_⟩
      simp only [hvalid, hforce, Bool.true_eq_false, Bool.false_eq_true, false_or] at hfar
      omega
    · have hfar : s.clock.valid = false ∨ force = true ∨ D < -128 ∨ 128 < D := by
        cases hvalid : s.clock.valid <;> cases hforce : force <;> simp [hvalid, hforce] at hnear ⊢
        omega
      rw [markKind_of_far hfar, takeMark_step]
      obtain ⟨t, hnext, hstate, hsettled, hreply⟩ := completed_accept_settled (s := s)
        (x := reachClosePoints (markStale (setClock s (stepClock s.clock seconds part))))
        (.setTime seconds part (boolCode force)) d false
        (oneByte (markKindCode (if s.clock.valid then .stepped else .validated)) ++
          signedFourBytes (saturateDifference D)) rfl
      refine ⟨t, hnext, fun hvalid hforce hlow hhigh => absurd ⟨hvalid, hforce, hlow, hhigh⟩ hnear, fun _ => ⟨?_, hsettled, ?_⟩⟩
      · have hclock : t.clock = stepClock s.clock seconds part := by rw [hstate]; rfl
        rw [← stepClock_eq]
        rw [reachClosePoints_eq (t := t) hclock] at hstate
        exact hstate
      · cases hvalid : s.clock.valid <;> rw [hvalid] at hreply <;> exact hreply

/-! ### The requests that read (O47) -/

theorem boolByte_eq (b : Bool) : boolByte b = [if b = true then 0x01#8 else 0x00#8] := by cases b <;> rfl

theorem modeByte_eq (m : PlanningMode) : BitVec.ofNat 8 (modeCode m) = if m = .auto then 0x00#8 else 0x01#8 := by
  cases m <;> rfl

theorem plannerBytes_eq (s : State) :
    plannerBytes s =
      [if s.planner.pass.isSome then 0x01#8 else 0x00#8, if s.policy.mode = .auto then 0x00#8 else 0x01#8,
          if s.planner.stale then 0x01#8 else 0x00#8] ++
        twoBytes s.planner.revision ++ [if s.planner.passTime.isSome then 0x01#8 else 0x00#8] ++
        fourBytes (s.planner.passTime.getD 0) ++
        [BitVec.ofNat 8 s.planner.stepsDone, BitVec.ofNat 8 s.planner.stepsTotal,
          if s.planner.lastEvaluated.isSome then 0x01#8 else 0x00#8,
          BitVec.ofNat 8 (s.planner.lastEvaluated.getD ⟨0, 0⟩).slot,
          BitVec.ofNat 8 (s.planner.lastEvaluated.getD ⟨0, 0⟩).tag, BitVec.ofNat 8 s.planner.abandoned] := by
  simp [plannerBytes, boolByte_eq, modeByte_eq, presentFourBytes, presentHandleBytes, handleBytes, oneByte]

theorem clockBytes_eq (c : Clock) :
    clockBytes c =
      [if c.valid then 0x01#8 else 0x00#8] ++ fourBytes c.seconds ++ [BitVec.ofNat 8 (min 63 (c.divider / 512))] ++
        signedTwoBytes c.trim ++ signedTwoBytes c.slew ++ [if c.stepped then 0x01#8 else 0x00#8] ++
        fourBytes c.elapsed := by
  rw [clockBytes, boolByte_eq, boolByte_eq]
  rfl

theorem holdRecordBytes_of_hold {r : HoldRecord} {h : Hold} (hr : r.hold = some h) :
    holdRecordBytes r =
      [0x01#8, BitVec.ofNat 8 (holdKindCode h.kind)] ++ twoBytes h.channel ++ twoBytes (keyCode h.key) ++
        [if h.takenAt.isSome then 0x01#8 else 0x00#8] ++ fourBytes (h.takenAt.getD 0) ++
        [BitVec.ofNat 8 (dropReasonCode r.lastDrop)] := by
  simp [holdRecordBytes, hr, boolByte_eq, holdBytes, presentFourBytes, oneByte]

theorem holdRecordBytes_of_none {r : HoldRecord} (hr : r.hold = none) :
    holdRecordBytes r = List.replicate 11 0 ++ [BitVec.ofNat 8 (dropReasonCode r.lastDrop)] := by
  rw [holdRecordBytes, hr]
  rfl

theorem causesBytes_eq (s : State) :
    causesBytes s =
      ((PerCause.toList s.out.causes).zip (PerCause.toList s.routings)).flatMap
          (fun c => [if c.1 then 0x01#8 else 0x00#8, BitVec.ofNat 8 (routingCode c.2)]) ++
        [BitVec.ofNat 8 ((occupied s).countP fun e => decide (e.2.state = .starting)),
          BitVec.ofNat 8 ((occupied s).countP fun e => e.2.clashMark),
          BitVec.ofNat 8 ((occupied s).countP fun e => e.2.state.isFinished),
          BitVec.ofNat 8 ((occupiedLinks s).countP fun e => e.2.noteLimit || e.2.noteTableFull),
          if s.out.attn then 0x01#8 else 0x00#8, if s.out.wakeRequest then 0x01#8 else 0x00#8] := by
  simp only [causesBytes, causeBytes, boolByte_eq, startingCount, markedCount, finishedCount, notedCount, countBookings,
    beq_eq_decide, oneByte, List.append_assoc, List.cons_append, List.nil_append]

/-- Settles O47: each read answers the bytes of what stands. -/
theorem readsAnswerTheState : Obligations.ReadsAnswerTheState := by
  refine ⟨fun s channel d ht => ?channel, fun s d ht => ?holds, fun s d ht => ?planner, fun s d ht => ?policy,
    fun s d ht => ?causes, fun s d ht => ?clock⟩
  case channel =>
    rw [exec_readChannel ht, takeReadChannel]
    by_cases hin : 1 ≤ channel ∧ channel ≤ 9999
    · rw [if_pos ((isChannel_iff channel).mpr hin)]
      cases hentry : entryOf s channel with
      | none =>
        obtain ⟨t, hnext, hstate, hreply⟩ := refused_next s (.readChannel channel) d .notFound
        refine ⟨t, hnext, hstate, fun hout => by omega, fun _ _ _ => hreply, fun _ _ _ e he hch => ?_⟩
        exact absurd hch ((entryOf_none s channel).mp hentry e he)
      | some found =>
        have hfound : found ∈ s.map.entries := List.mem_of_find?_eq_some hentry
        have hchannel : found.channel = channel := by simpa using List.find?_some hentry
        obtain ⟨t, hnext, hstate, hreply⟩ := read_next s (.readChannel channel) d false
          (twoBytes found.channel ++ twoBytes found.mux ++ oneByte found.band.val ++
            oneByte (eligibleCode (s.map.bands.at found.band)) ++ twoBytes s.map.entries.length)
        refine ⟨t, hnext, hstate, fun hout => by omega, fun _ _ hnone => absurd hchannel (hnone found hfound),
          fun hsorted _ _ e he hch => ?_⟩
        have hsame : some e = some found := by rw [← entryOf_eq s hsorted e he, hch, hentry]
        cases hsame
        exact Eq.mp (congrArg (Replied s t 0x22#8 d .ok) (by simp [oneByte])) hreply
    · rw [if_neg (fun h => hin ((isChannel_iff channel).mp h))]
      obtain ⟨t, hnext, hstate, hreply⟩ := refused_next s (.readChannel channel) d .badValue
      exact ⟨t, hnext, hstate, fun _ => hreply, fun h1 h2 => absurd ⟨h1, h2⟩ hin, fun _ h1 h2 => absurd ⟨h1, h2⟩ hin⟩
  case holds =>
    rw [exec_readHolds ht]
    obtain ⟨t, hnext, hstate, hreply⟩ := read_next s .readHolds d false
      (holdRecordBytes s.holds.on0 ++ holdRecordBytes s.holds.on1)
    refine ⟨t, hnext, hstate, Eq.mp (congrArg (Replied s t 0x2A#8 d .ok) ?_) hreply⟩
    rw [List.flatMap_cons, List.flatMap_cons, List.flatMap_nil, List.append_nil]
    refine congrArg₂ (· ++ ·) ?_ ?_
    · cases h : s.holds.on0.hold with
      | none => exact holdRecordBytes_of_none h
      | some x => exact holdRecordBytes_of_hold h
    · cases h : s.holds.on1.hold with
      | none => exact holdRecordBytes_of_none h
      | some x => exact holdRecordBytes_of_hold h
  case planner =>
    rw [exec_readPlanner ht, plannerBytes_eq]
    exact read_next s .readPlanner d false _
  case policy =>
    rw [exec_readPolicy ht]
    obtain ⟨t, hnext, hstate, hreply⟩ := read_next s .readPolicy d false (policyBytes s.policy)
    refine ⟨t, hnext, hstate, Eq.mp (congrArg (Replied s t 0x59#8 d .ok) ?_) hreply⟩
    simp only [policyBytes, modeByte_eq, List.flatMap_cons, List.flatMap_nil, List.append_nil, oneByte,
      List.append_assoc, List.cons_append, List.nil_append]
    cases s.policy.defaultBand with
    | none => rfl
    | some b => rfl
  case causes =>
    rw [exec_readCauses ht, causesBytes_eq]
    exact read_next s .readCauses d false _
  case clock =>
    rw [exec_readClock ht, takeReadClock, clockBytes_eq]
    exact completed_accept_settled (s := s) (x := setClock s { s.clock with stepped := false }) .readClock d false _ rfl

end Sys2Proof.Machine
end

section
/-! PROOF. The events of a pass: how one begins (O35), a booking step (O36), and the install (O40). -/

namespace Sys2Proof.Machine

/-! ### A pass begins (O35) -/

theorem holdOccupants_eq (s : State) (passTime : Nat) :
    holdOccupants s passTime =
      [Tuner.tuner0, Tuner.tuner1].flatMap fun t =>
        (firmHold s t).toList.map fun h => ⟨t, passTime, none, h.key⟩ := by
  rw [holdOccupants, List.filterMap_eq_flatMap_toList]
  simp only [Option.toList_map]

theorem pinOf_toList (passTime : Nat) (b : Booking) :
    (pinOf passTime b).toList =
      if b.state = .starting ∨ b.state = .recording then
        b.running.toList.map fun r => ⟨r.tuner, max r.actualOpen passTime, some r.closePoint, r.key⟩
      else [] := by
  unfold pinOf
  cases b.state <;> simp [BookingState.isRunning, Option.toList_map]

theorem pins_eq (s : State) (passTime : Nat) :
    ((occupied s).filterMap fun e => pinOf passTime e.2) =
      (occupied s).flatMap fun e =>
        if e.2.state = .starting ∨ e.2.state = .recording then
          e.2.running.toList.map fun r => ⟨r.tuner, max r.actualOpen passTime, some r.closePoint, r.key⟩
        else [] := by
  rw [List.filterMap_eq_flatMap_toList]
  exact congrArg (fun f => (occupied s).flatMap f) (funext fun e => pinOf_toList passTime e.2)

theorem beginPass_eq (s : State) : beginPass s = { s with planner := begunPlanner s s.planner.abandoned } := by
  simp only [beginPass, holdOccupants_eq, pins_eq]
  rfl

theorem beginDue_iff (s : State) :
    beginDue s = true ↔ s.planner.pass = none ∧ s.policy.mode = .auto ∧ s.planner.stale = true := by
  simp [beginDue, and_assoc]

/-- Settles O35: each of the three begins a pass by step 0, or leaves the state. -/
theorem passBeginsWithStepZero : Obligations.PassBeginsWithStepZero := by
  refine ⟨fun s hpass hmode hstale => ?begins, fun s hidle => ?waits, fun s hpass habandon => ?abandons,
    fun s hkeep => ?keeps, fun s d ht hpass => ?now, fun s d ht hpass => ?running⟩
  case begins =>
    rw [← beginPass_eq]
    exact if_pos ((beginDue_iff s).mpr ⟨hpass, hmode, hstale⟩)
  case waits =>
    refine if_neg fun hdue => ?_
    obtain ⟨hpass, hmode, hstale⟩ := (beginDue_iff s).mp hdue
    simp [hpass, hmode, hstale] at hidle
  case abandons =>
    have hbegun := beginPass_eq { s with planner := { s.planner with abandoned := s.planner.abandoned + 1 } }
    refine (if_pos ((abandonDue_iff s).mpr ⟨hpass, habandon⟩)).trans (congrArg Host.Outcome.next ?_)
    exact hbegun
  case keeps =>
    refine if_neg fun hdue => ?_
    obtain ⟨hpass, habandon⟩ := (abandonDue_iff s).mp hdue
    rcases hkeep with hnone | hnot
    · rw [hnone] at hpass; cases hpass
    · exact hnot habandon
  case now =>
    rw [exec_planNow ht]
    simp only [takePlanNow, hpass, beginPass_eq]
    exact completed_accept (s := s) (x := { s with planner := begunPlanner s s.planner.abandoned }) .planNow d false
      (boolByte true ++ twoBytes s.planner.revision) rfl
  case running =>
    obtain ⟨p, hp⟩ := Option.isSome_iff_exists.mp hpass
    rw [exec_planNow ht]
    simp only [takePlanNow, hp]
    exact read_next s .planNow d false (boolByte false ++ twoBytes s.planner.revision)

/-! ### Booking steps (O36) -/

theorem not_abandonDue {s : State} (h : ¬ Abandoning s) : ¬ abandonDue s = true :=
  fun hdue => h ((abandonDue_iff s).mp hdue).2

/-- A booking step adds occupants and results, and leaves the limit and the order of the pass. -/
theorem stepRecord_frame (s : State) (p : PassRecord) (e : OrderEntry) :
    stepRecord s p e = { p with occupants := (stepRecord s p e).occupants, results := (stepRecord s p e).results } := by
  unfold stepRecord
  cases bookingOf s e.handle with
  | none => rfl
  | some b =>
    dsimp only
    cases b.state <;> rfl

theorem stepRecord_finished {s : State} {p : PassRecord} {e : OrderEntry}
    (h : ∀ b, bookingOf s e.handle = some b → b.state.isFinished = true) : stepRecord s p e = p := by
  unfold stepRecord
  cases hb : bookingOf s e.handle with
  | none => rfl
  | some b =>
    have hfin := h b hb
    dsimp only
    cases hst : b.state with
    | scheduled | starting | recording => rw [hst] at hfin; cases hfin
    | completed | aborted | failed | missed => rfl

theorem stepRecord_running {s : State} {p : PassRecord} {e : OrderEntry} {b : Booking} {r : RunningPlacement}
    (hb : bookingOf s e.handle = some b) (hst : b.state = .starting ∨ b.state = .recording) (hr : b.running = some r) :
    stepRecord s p e =
      { p with
        occupants :=
          p.occupants ++ [⟨r.tuner, max r.actualOpen (s.planner.passTime.getD 0), some r.closePoint, r.key⟩] } := by
  rcases hst with hst | hst <;> simp [stepRecord, hb, hst, pinOf, hr, BookingState.isRunning]

theorem stepRecord_scheduled {s : State} {p : PassRecord} {e : OrderEntry} {b : Booking}
    (hb : bookingOf s e.handle = some b) (hst : b.state = .scheduled) :
    stepRecord s p e =
      { p with
        occupants := p.occupants ++ placedOccupant ((boardOf s p).evaluate b (resolve s))
        results := p.results ++ [stepResult s p e b] } := by
  simp only [stepRecord, hb, hst]

/-- Settles O36: the state of the booking found decides what the step records. -/
theorem bookingStepTakesOneEntry : Obligations.BookingStepTakesOneEntry := by
  intro s p e hpass hkeep hdue he
  refine ⟨stepRecord s p e, ?_, fun hfin => ?_, fun b r hb hst hr => ?_, fun b hb hst => ?_⟩
  · rw [← stepRecord_frame]
    simp only [exec, execBookingStep, hpass, if_neg (not_abandonDue hkeep), if_pos hdue, he]
  · rw [stepRecord_finished hfin]
    exact ⟨rfl, rfl⟩
  · rw [stepRecord_running hb hst hr]
    exact ⟨rfl, rfl⟩
  · rw [stepRecord_scheduled hb hst]
    obtain ⟨v, key, hv⟩ : ∃ v key, (boardOf s p).evaluate b (resolve s) = (v, key) := ⟨_, _, rfl⟩
    refine ⟨v, key, hv, ?_, ?_⟩
    · simp only [stepResult, hv]
    · rw [hv]
      cases v <;> cases key <;> rfl

/-! ### The install (O40) -/

theorem isClashed_iff (b : Booking) : isClashed b.installed = true ↔ WasClashed b := by
  unfold isClashed WasClashed
  cases b.installed <;> simp

theorem installInto_frame_none {p : PassRecord} {h : Handle} {b : Booking} (hno : ∀ q ∈ p.results, q.handle ≠ h) :
    installInto p h b = { b with heldBack := false } := by
  have hnone : resultFor p h = none := by
    rw [resultFor, Option.map_eq_none_iff, List.find?_eq_none]
    simpa using hno
  simp only [installInto, hnone]

theorem installInto_unscheduled {p : PassRecord} {h : Handle} {b : Booking} (hst : b.state ≠ .scheduled) :
    installInto p h b = { b with heldBack := false } := by
  unfold installInto
  cases resultFor p h with
  | none => rfl
  | some e => simp only [if_neg hst]

theorem resultFor_of_unique {p : PassRecord} {h : Handle} {q : StepResult} (hq : q ∈ p.results) (hh : q.handle = h)
    (hunique : ∀ q' ∈ p.results, q'.handle = h → q' = q) : resultFor p h = some q.evaluation := by
  have hsome : (p.results.find? fun r => r.handle == h).isSome = true := by
    rw [List.find?_isSome]
    exact ⟨q, hq, by simp [hh]⟩
  obtain ⟨q', hfound⟩ := Option.isSome_iff_exists.mp hsome
  have hsame : q' = q := hunique q' (List.mem_of_find?_eq_some hfound) (by simpa using List.find?_some hfound)
  rw [resultFor, hfound, hsame]
  rfl

theorem installInto_scheduled {p : PassRecord} {h : Handle} {b : Booking} {e : Evaluation} (hres : resultFor p h = some e)
    (hst : b.state = .scheduled) : installInto p h b = { writeResult e b with heldBack := false } := by
  simp only [installInto, hres, if_pos hst]

/-- The clash mark that a result leaves: set on entering CLASHED, cleared on leaving it, and kept otherwise (R121). -/
theorem writeResult_clashMark (e : Evaluation) (b : Booking) :
    (e.verdict = .clashed → ¬ WasClashed b → (writeResult e b).clashMark = true) ∧
      (e.verdict ≠ .clashed → WasClashed b → (writeResult e b).clashMark = false) ∧
      ((e.verdict = .clashed ↔ WasClashed b) → (writeResult e b).clashMark = b.clashMark) := by
  have hnew : isClashed (some e) = true ↔ e.verdict = .clashed := by simp [isClashed]
  rw [Ne, ← isClashed_iff, ← hnew]
  unfold writeResult
  cases isClashed (some e) <;> cases isClashed b.installed <;> simp

/-- Settles O40: what the install does, slot by slot. -/
theorem installWritesTheResults : Obligations.InstallWritesTheResults := by
  intro s p hpass hkeep hdone
  have hslot (i : Nat) : (settle (installPass s p)).bookings[i]? =
      (s.bookings[i]?).map fun sl => { sl with booking := sl.booking.map (installInto p ⟨i, sl.lastTag⟩) } :=
    installSlots_slot p s.bookings i
  refine ⟨settle (installPass s p), ?_, rfl, rfl, ?_, fun i tag => ⟨fun hfree => ?_, fun b hb => ⟨fun hno => ?_, ?_⟩⟩⟩
  · simp only [exec, execInstall, hpass, if_neg (not_abandonDue hkeep), if_pos hdone]
  · simp [installPass, installSlots]
  · rw [hslot, hfree]
    rfl
  · have hinto : installInto p ⟨i, tag⟩ b = { b with heldBack := false } := by
      rcases hno with hst | hnone
      · exact installInto_unscheduled hst
      · exact installInto_frame_none hnone
    rw [← hinto, SlotHolds, hslot, hb]
    rfl
  · intro q hq hh hunique hst
    have hinto := installInto_scheduled (resultFor_of_unique hq hh hunique) hst
    refine ⟨installInto p ⟨i, tag⟩ b, ?_, ?_, ?_⟩
    · rw [SlotHolds, hslot, hb]
      rfl
    · rw [hinto]
      rfl
    · rw [hinto]
      exact writeResult_clashMark q.evaluation b

end Sys2Proof.Machine
end

section
/-! PROOF. The Window Timer: expiry, close and lapse (O44), and the open event (O42). -/

namespace Sys2Proof.Machine

/-! ### Expiry, close and lapse (O44) -/

theorem exec_confirmExpiry (slot : Nat) (s : State) :
    exec (.confirmExpiry slot) s =
      onTimer s slot (expiryDue s) fun h b => finishBooking s h b .failed (some .noConfirm) := rfl

theorem exec_lapseEvent (slot : Nat) (s : State) :
    exec (.lapseEvent slot) s = onTimer s slot (lapseDue s) fun h b => finishBooking s h b .missed none := rfl

theorem exec_closeEvent (slot : Nat) (s : State) :
    exec (.closeEvent slot) s = onTimer s slot closeDue fun h b => closeBooking s h b := rfl

theorem exec_openEvent (slot : Nat) (s : State) :
    exec (.openEvent slot) s = execOpenEvent slot s := rfl

/-- A timer event that finishes its booking (R149). -/
theorem timer_finishes {s : State} {slot : Nat} {b : Booking} {due : Booking → Bool} {take : Handle → Booking → State}
    {st : BookingState} {reason : Option FinishReason} (hb : bookingAt s slot = some b) (hdue : due b = true)
    (htake : take ⟨slot, tagAt s slot⟩ b = finishBooking s ⟨slot, tagAt s slot⟩ b st reason) :
    ∃ t, onTimer s slot due take = .next t ∧
      t = { s with bookings := t.bookings, links := t.links, planner := { s.planner with stale := true }, out := t.out } ∧
      t.links = (finishBooking s ⟨slot, tagAt s slot⟩ b st reason).links ∧ SlotsAgreeBut slot s t ∧
      HoldsBooking s t slot (asFinished s st reason b) ∧ OutputsSettled t := by
  have hbookings := finishBooking_bookings s ⟨slot, tagAt s slot⟩ b st reason
  refine ⟨settle (finishBooking s ⟨slot, tagAt s slot⟩ b st reason), ?_, ?_, rfl,
    finishBooking_agree s ⟨slot, tagAt s slot⟩ b st reason, ?_, rfl⟩
  · rw [timer_taken hb hdue, htake]
  · exact congrArg (fun x : State =>
      { x with out := deriveOutputs (finishBooking s ⟨slot, tagAt s slot⟩ b st reason) })
      (finishBooking_frame s ⟨slot, tagAt s slot⟩ b st reason)
  · unfold HoldsBooking
    rw [← asFinished_eq]
    exact (congrArg (·[slot]?) hbookings).trans (updateBooking_record _ hb)

/-- A timer event that fails or misses its booking takes the episode out of the history of its link (R60). -/
theorem timer_ends {s : State} {slot : Nat} {b : Booking} {due : Booking → Bool} {take : Handle → Booking → State}
    {st : BookingState} {reason : Option FinishReason} (hst : st = .failed ∨ st = .missed)
    (hb : bookingAt s slot = some b) (hdue : due b = true)
    (htake : take ⟨slot, tagAt s slot⟩ b = finishBooking s ⟨slot, tagAt s slot⟩ b st reason) :
    ∃ t, onTimer s slot due take = .next t ∧
      t = { s with bookings := t.bookings, links := t.links, planner := { s.planner with stale := true }, out := t.out } ∧
      SlotsAgreeBut slot s t ∧ HoldsBooking s t slot (asFinished s st reason b) ∧ HistoryRemoved s t b ∧
      OutputsSettled t := by
  obtain ⟨t, hnext, hframe, hlinks, hothers, hrecord, hsettled⟩ := timer_finishes hb hdue htake
  exact ⟨t, hnext, hframe, hothers, hrecord, fun i => by rw [hlinks]; exact finish_history hst i, hsettled⟩

theorem timer_idle_at {s : State} {slot : Nat} {b : Booking} {due : Booking → Bool} {take : Handle → Booking → State}
    (hb : bookingAt s slot = some b) (hdue : due b = false) : onTimer s slot due take = .next s :=
  timer_idle fun c hc => by
    obtain rfl : b = c := Option.some.inj (hb.symm.trans hc)
    exact hdue

theorem expiryDue_iff (s : State) (b : Booking) :
    expiryDue s b = true ↔
      b.state = .starting ∧ ∃ timer ∈ b.confirmTimer.toList,
        timer.timeout ≤ (s.clock.elapsed + 4294967296 - timer.entry) % 4294967296 := by
  cases htimer : b.confirmTimer with
  | none => simp [expiryDue, htimer]
  | some timer =>
    simp only [expiryDue, htimer, Bool.and_eq_true, beq_iff_eq, decide_eq_true_eq, Option.toList_some, List.mem_singleton,
      exists_eq_left]
    rfl

theorem lapseDue_iff (s : State) (b : Booking) :
    lapseDue s b = true ↔ b.state = .scheduled ∧ reached s (lapsePoint b) = true := by simp [lapseDue]

theorem closeDue_iff (b : Booking) : closeDue b = true ↔ b.state.isRunning = true ∧ b.closeReached = true := by
  simp [closeDue]

/-- The close of a RECORDING booking: extended by 300 s, or completed (R144, R145). -/
theorem closeEvent_recording {s : State} {slot : Nat} {b : Booking} {r : RunningPlacement} {v : Showing}
    (hb : bookingAt s slot = some b) (hst : b.state = .recording) (hclose : b.closeReached = true) (hr : b.running = some r)
    (hv : showingNamed b r.used = some v) :
    ∃ t close, exec (.closeEvent slot) s = .next t ∧
      close = satAdd (coreEnd v + r.postAllowance) (b.extensionUsed + 300) ∧
      t = { s with bookings := t.bookings, planner := { s.planner with stale := true }, out := t.out } ∧
      SlotsAgreeBut slot s t ∧ OutputsSettled t ∧
      (Extends s slot b r →
        HoldsBooking s t slot
          { b with extensionUsed := b.extensionUsed + 300, running := some { r with closePoint := close },
                   closeReached := reached s close }) ∧
      (¬ Extends s slot b r → HoldsBooking s t slot (asFinished s .completed none b)) := by
  have hdue : closeDue b = true := (closeDue_iff b).mpr ⟨by rw [hst]; rfl, hclose⟩
  by_cases hx : Extends s slot b r
  · have hpoint : closePointOf { b with extensionUsed := b.extensionUsed + 300 } r =
        satAdd (coreEnd v + r.postAllowance) (b.extensionUsed + 300) :=
      closePointOf_eq (b := { b with extensionUsed := b.extensionUsed + 300 })
        (show showingNamed _ r.used = some v from (by cases hused : r.used <;> rw [hused] at hv <;> exact hv))
    have htake := closeBooking_extends (h := ⟨slot, tagAt s slot⟩) hst hr hx
    refine ⟨settle (markStale (updateBooking s slot (extended s r))), _, ?_, rfl, rfl, updateBooking_agree s slot _, rfl,
      fun _ => ?_, fun hno => absurd hx hno⟩
    · exact (timer_taken hb hdue).trans (congrArg (fun x => Host.Outcome.next (settle x)) htake)
    · rw [← hpoint]
      exact updateBooking_record (extended s r) hb
  · obtain ⟨t, hnext, hframe, hlinks, hothers, hrecord, hsettled⟩ :=
      timer_finishes hb hdue (closeBooking_completes (h := ⟨slot, tagAt s slot⟩) hst hr hx)
    have hlinks : t.links = s.links := hlinks
    rw [hlinks] at hframe
    exact ⟨t, _, hnext, rfl, hframe, hothers, hsettled, fun hyes => absurd hyes hx, fun _ => hrecord⟩

/-- Settles O44: each timer event, due and not due. -/
theorem timerEventsFinishOrExtend : Obligations.TimerEventsFinishOrExtend := by
  refine ⟨fun s slot b hb => ⟨fun hexpired => ?expiry, fun hst hclose => ?closing, fun hst hlapsed => ?lapse,
    fun r v hst hclose hr hv => closeEvent_recording hb hst hclose hr hv⟩,
    fun s slot => ⟨fun b hb => ⟨fun hwait => ?noExpiry, fun hwait => ?noClosing, fun hwait => ?noLapse⟩, fun hfree => ?free⟩⟩
  case expiry =>
    rw [exec_confirmExpiry]
    exact timer_ends (Or.inl rfl) hb ((expiryDue_iff s b).mpr hexpired) rfl
  case closing =>
    exact timer_ends (Or.inl rfl) hb ((closeDue_iff b).mpr ⟨by rw [hst]; rfl, hclose⟩) (closeBooking_starting hst)
  case lapse =>
    rw [exec_lapseEvent]
    exact timer_ends (Or.inr rfl) hb ((lapseDue_iff s b).mpr ⟨hst, hlapsed⟩) rfl
  case noExpiry =>
    rw [exec_confirmExpiry]
    refine timer_idle_at hb (Bool.eq_false_iff.mpr fun hdue => ?_)
    obtain ⟨hst, timer, htimer, hexpired⟩ := (expiryDue_iff s b).mp hdue
    rcases hwait with hno | hrunning
    · exact hno hst
    · exact absurd hexpired (Nat.not_le.mpr (hrunning timer htimer))
  case noClosing =>
    refine timer_idle_at hb (Bool.eq_false_iff.mpr fun hdue => ?_)
    obtain ⟨hrunning, hclose⟩ := (closeDue_iff b).mp hdue
    simp [hrunning, hclose] at hwait
  case noLapse =>
    rw [exec_lapseEvent]
    refine timer_idle_at hb (Bool.eq_false_iff.mpr fun hdue => ?_)
    obtain ⟨hst, hlapsed⟩ := (lapseDue_iff s b).mp hdue
    simp [hst, hlapsed] at hwait
  case free =>
    have hno (due : Booking → Bool) (take : Handle → Booking → State) : onTimer s slot due take = .next s :=
      timer_idle fun b hb => by rw [hfree] at hb; cases hb
    rw [exec_confirmExpiry, exec_closeEvent, exec_lapseEvent]
    exact ⟨hno _ _, hno _ _, hno _ _⟩

/-! ### The open event (O42) -/

theorem openKey_of_opens {s : State} {slot : Nat} {b : Booking} {p : Placement} {v : Showing} {route : Route}
    (h : OpensUnder s slot b p v route) : openKey s b p = some route.key := by
  obtain ⟨hv, hroute, htuner, -⟩ := h
  simp [openKey, hv, hroute, htuner]

theorem openCheck_iff (s : State) (slot : Nat) (p : Placement) (key : MuxKey) :
    openCheck s slot p key = true ↔
      s.clock.seconds < p.closeAt ∧ (∀ h ∈ (firmHold s p.tuner).toList, h.key = key) ∧
        (∀ e ∈ countedOn s p.tuner (some slot), runningKey e.2 = some key) ∧
        (countedOn s p.tuner (some slot)).length + (if (firmHold s p.tuner).isSome then 1 else 0) <
          s.policy.streamLimit := by
  cases hfirm : firmHold s p.tuner with
  | none =>
    simp only [openCheck, hfirm, Bool.and_eq_true, decide_eq_true_eq, List.all_eq_true, beq_iff_eq, and_assoc]
    simp [now]
  | some hold =>
    simp only [openCheck, hfirm, Bool.and_eq_true, decide_eq_true_eq, List.all_eq_true, beq_iff_eq, and_assoc]
    simp [now]

theorem opens_of_check {s : State} {slot : Nat} {b : Booking} {p : Placement} {key : MuxKey} (hkey : openKey s b p = some key)
    (hcheck : openCheck s slot p key = true) : ∃ v route, OpensUnder s slot b p v route := by
  unfold openKey at hkey
  split at hkey
  · next route hroute =>
    split at hkey
    · next htuner =>
      obtain rfl : route.key = key := Option.some.inj hkey
      obtain ⟨v, hv, hresolve⟩ := Option.bind_eq_some_iff.mp hroute
      exact ⟨v, route, hv, hresolve, htuner, (openCheck_iff s slot p route.key).mp hcheck⟩
    · cases hkey
  · cases hkey

theorem openBooking_starts {s : State} {h : Handle} {b : Booking} {p : Placement} {v : Showing} {route : Route}
    (hopens : OpensUnder s h.slot b p v route) :
    openBooking s h b p = updateBooking (preempt s h.slot p route.key) h.slot (started s p route.key) := by
  have hkey := openKey_of_opens hopens
  obtain ⟨-, -, -, hcheck⟩ := hopens
  simp only [openBooking, hkey, if_pos ((openCheck_iff s h.slot p route.key).mpr hcheck)]

theorem openBooking_heldBack {s : State} {h : Handle} {b : Booking} {p : Placement}
    (hno : ¬ ∃ v route, OpensUnder s h.slot b p v route) :
    openBooking s h b p = updateBooking s h.slot fun x => { x with heldBack := true } := by
  unfold openBooking
  split
  · next key hkey =>
    exact if_neg fun hcheck => hno (opens_of_check hkey hcheck)
  · rfl

theorem softConflict_iff (s : State) (slot : Nat) (t : Tuner) (key : MuxKey) (hold : Hold) :
    softConflict s hold key (countedOn s t (some slot)).length = true ↔ StandsAgainst s slot t key hold := by
  simp only [softConflict, StandsAgainst, Bool.or_eq_true, bne_iff_ne, decide_eq_true_eq]

theorem preempt_at (s : State) (slot : Nat) (p : Placement) (key : MuxKey) (T : Tuner) :
    (T = p.tuner → (∃ hold ∈ (softHold s T).toList, StandsAgainst s slot T key hold) →
        (preempt s slot p key).holds.at T = ⟨none, .preempted⟩) ∧
      (T ≠ p.tuner ∨ (∀ hold ∈ (softHold s T).toList, ¬ StandsAgainst s slot T key hold) →
        (preempt s slot p key).holds.at T = s.holds.at T) := by
  unfold preempt
  cases hsoft : softHold s p.tuner with
  | none =>
    refine ⟨?_, fun _ => rfl⟩
    rintro rfl ⟨hold, hmem, -⟩
    rw [hsoft] at hmem
    cases hmem
  | some hold =>
    have hpresent : (s.holds.at p.tuner).hold.isSome = true := by
      obtain ⟨hat, -⟩ := (softHold_eq_some s p.tuner hold).mp hsoft
      rw [hat]; rfl
    by_cases hstands : StandsAgainst s slot p.tuner key hold
    · simp only [if_pos ((softConflict_iff s slot p.tuner key hold).mpr hstands), dropHold_at, hpresent, and_true]
      refine ⟨fun hT _ => if_pos hT, fun hother => if_neg ?_⟩
      rintro rfl
      rcases hother with hne | hnone
      · exact hne rfl
      · exact hnone hold (by rw [hsoft]; exact Option.mem_toList.mpr rfl) hstands
    · simp only [if_neg fun hc => hstands ((softConflict_iff s slot p.tuner key hold).mp hc), implies_true, and_true]
      rintro rfl ⟨hold', hmem, hagainst⟩
      rw [hsoft] at hmem
      obtain rfl : hold = hold' := Option.some.inj (Option.mem_toList.mp hmem)
      exact absurd hagainst hstands

theorem preempt_frame (s : State) (slot : Nat) (p : Placement) (key : MuxKey) :
    preempt s slot p key = { s with holds := (preempt s slot p key).holds } := by
  unfold preempt
  split
  · split
    · exact dropHold_frame s p.tuner .preempted
    · rfl
  · rfl

theorem openBooking_frame (s : State) (h : Handle) (b : Booking) (p : Placement) :
    openBooking s h b p = { s with bookings := (openBooking s h b p).bookings, holds := (openBooking s h b p).holds } := by
  unfold openBooking
  split
  · next key _ =>
    split
    · exact congrArg
        (fun x : State => { x with bookings := (updateBooking (preempt s h.slot p key) h.slot (started s p key)).bookings })
        (preempt_frame s h.slot p key)
    · rfl
  · rfl

theorem openBooking_agree (s : State) (h : Handle) (b : Booking) (p : Placement) :
    SlotsAgreeBut h.slot s (openBooking s h b p) := by
  unfold openBooking
  split
  · next key _ =>
    split
    · rw [preempt_frame]
      exact updateBooking_agree s h.slot _
    · exact updateBooking_agree s h.slot _
  · exact updateBooking_agree s h.slot _

theorem preempt_record {s : State} {slot : Nat} {b : Booking} {p : Placement} {key : MuxKey} {f : Booking → Booking}
    (hb : bookingAt s slot = some b) : HoldsBooking s (updateBooking (preempt s slot p key) slot f) slot (f b) := by
  rw [preempt_frame]
  exact updateBooking_record f hb

/-- The close point of a booking that starts is that of its placement, when no extension was used (R133). -/
theorem started_close {b : Booking} {p : Placement} {v : Showing} (hv : showingNamed b p.kind.used = some v)
    (hfit : WindowFits b p) (hext : b.extensionUsed = 0) :
    satAdd (coreEnd v + (p.closeAt - coreEnd v)) b.extensionUsed = p.closeAt := by
  obtain ⟨w, hw, -, hcore, hpadded, -⟩ := hfit
  obtain rfl : v = w := Option.some.inj (hv.symm.trans (Option.mem_toList.mp hw))
  unfold paddedEnd satAdd at hpadded
  unfold satAdd
  omega

theorem started_eq {s : State} {b : Booking} {p : Placement} {v : Showing} (key : MuxKey)
    (hv : showingNamed b p.kind.used = some v) :
    started s p key b =
      { b with
        state := .starting, startStamp := some s.clock.seconds
        running := some ⟨p.tuner, key, p.kind.used, s.clock.seconds, p.closeAt - coreEnd v,
          satAdd (coreEnd v + (p.closeAt - coreEnd v)) b.extensionUsed⟩
        confirmTimer := some ⟨s.clock.elapsed, s.policy.confirmTimeout⟩
        lateStart := decide (p.openAt < s.clock.seconds)
        runningStatus := if p.kind = .onAlternative then .unknown else b.runningStatus
        closeReached := false } := by
  have hused : p.kind.used = .alternative ↔ p.kind = .onAlternative := by cases p.kind <;> simp [PlacedKind.used]
  have hpost : postAllowanceAt b p = p.closeAt - coreEnd v := by simp only [postAllowanceAt, hv]
  have hstatus : (if p.kind.used = .alternative then RunningStatus.unknown else b.runningStatus) =
      if p.kind = .onAlternative then .unknown else b.runningStatus := if_congr hused rfl rfl
  have hrunning : runningAt s b p key = ⟨p.tuner, key, p.kind.used, s.clock.seconds, p.closeAt - coreEnd v,
      satAdd (coreEnd v + (p.closeAt - coreEnd v)) b.extensionUsed⟩ := by
    simp only [runningAt, hpost, closePointOf, hv, now]
  rw [started, hrunning, hstatus]
  rfl

/-- Settles O42: the open check starts the booking or holds it back. -/
theorem openEventStartsOrHoldsBack : Obligations.OpenEventStartsOrHoldsBack := by
  refine ⟨fun s slot hwait => ?idle, fun s slot b p hb hp hfree hnotLapsed hopen => ?due⟩
  case idle =>
    rw [exec_openEvent]
    refine timer_idle fun b hb => Bool.eq_false_iff.mpr fun hdue => ?_
    obtain ⟨p, happroaches⟩ := Option.isSome_iff_exists.mp hdue
    obtain ⟨hp, hfree, hnotLapsed, hopen⟩ := (approaches_iff s 0 b p).mp happroaches
    rcases hwait b p hb hp with hheld | hlapsed | hahead
    · rw [hheld] at hfree; cases hfree
    · rw [hlapsed] at hnotLapsed; cases hnotLapsed
    · rw [Nat.sub_zero, hahead] at hopen; cases hopen
  case due =>
    have hdue : openDue s b = true :=
      Option.isSome_iff_exists.mpr ⟨p, (approaches_iff s 0 b p).mpr ⟨hp, hfree, hnotLapsed, hopen⟩⟩
    obtain ⟨h, hh⟩ : ∃ h : Handle, h = ⟨slot, tagAt s slot⟩ := ⟨_, rfl⟩
    obtain rfl : h.slot = slot := by rw [hh]
    have hnext : exec (.openEvent h.slot) s = .next (settle (openBooking s h b p)) := by
      rw [exec_openEvent, execOpenEvent, timer_taken hb hdue, ← hh]
      simp only [hp]
    refine ⟨settle (openBooking s h b p), hnext,
      congrArg (fun x : State => { x with out := deriveOutputs (openBooking s h b p) }) (openBooking_frame s h b p),
      openBooking_agree s h b p, rfl, fun hno => ?_, fun v route hopens => ?_⟩
    · rw [openBooking_heldBack hno]
      exact ⟨updateBooking_record _ hb, rfl⟩
    · rw [openBooking_starts hopens]
      obtain ⟨hv, -⟩ := hopens
      refine ⟨_, rfl, started_close hv, ?_, preempt_at s h.slot p route.key⟩
      rw [← started_eq route.key hv]
      exact preempt_record hb

end Sys2Proof.Machine
end

section
/-! PROOF. Fit on a tuner instant by instant (O37), and the trimmed windows (O38). What an instant carries changes only where
an occupant opens or closes, so that an instant is as free as the last opening before it, or the next closing after it. -/

namespace Sys2Proof.Machine

section board
variable {bd : Board} {T : Tuner} {key : MuxKey}

theorem mem_onTuner (o : Occupant) : o ∈ bd.onTuner T ↔ o ∈ bd.occupants ∧ o.tuner = T := by simp [Board.onTuner]

/-- An instant is free when every occupant that covers it covers one that is free. -/
theorem isFree_of_covers {i j : Nat} (hcovers : ∀ o ∈ bd.onTuner T, o.covers i = true → o.covers j = true)
    (hfree : bd.isFree T key j = true) : bd.isFree T key i = true := by
  rw [isFree_iff] at hfree ⊢
  obtain ⟨hkey, hcount⟩ := hfree
  have hmoves (o : Occupant) (ho : o ∈ bd.occupants) (ht : o.tuner = T) (hopen : o.openAt ≤ i)
      (hclose : ∀ c ∈ o.closeAt.toList, i < c) : o.openAt ≤ j ∧ ∀ c ∈ o.closeAt.toList, j < c :=
    (covers_iff o j).mp (hcovers o ((mem_onTuner o).mpr ⟨ho, ht⟩) ((covers_iff o i).mpr ⟨hopen, hclose⟩))
  refine ⟨fun o ho ht hopen hclose => ?_, Nat.lt_of_le_of_lt (List.countP_mono_left fun o ho hcover => ?_) hcount⟩
  · obtain ⟨hopen', hclose'⟩ := hmoves o ho ht hopen hclose
    exact hkey o ho ht hopen' hclose'
  · obtain ⟨ht, hopen, hclose⟩ := of_decide_eq_true hcover
    exact decide_eq_true ⟨ht, hmoves o ho ht hopen hclose⟩

/-- A window fits exactly when its first instant and the openings within it are free. -/
theorem fits_iff_openings {a b : Nat} :
    bd.fits T key a b = true ↔
      b ≤ a ∨ bd.isFree T key a = true ∧
        ∀ o ∈ bd.onTuner T, a < o.openAt → o.openAt < b → bd.isFree T key o.openAt = true := by
  simp only [Board.fits, Bool.or_eq_true, Bool.and_eq_true, decide_eq_true_eq, List.all_eq_true, Bool.not_eq_true',
    Bool.and_eq_false_iff, decide_eq_false_iff_not]
  refine or_congr Iff.rfl (and_congr Iff.rfl (forall₂_congr fun o _ => ?_))
  tauto

/-- A window fits exactly when each of its instants is free (R107). -/
theorem fits_iff_free {a b : Nat} : bd.fits T key a b = true ↔ ∀ i, a ≤ i → i < b → bd.isFree T key i = true := by
  rw [fits_iff_openings]
  constructor
  · intro hfits i ha hb
    obtain ⟨hfirst, hopenings⟩ := hfits.resolve_left (by omega)
    obtain ⟨hlast, hle, hmax⟩ := greatest_spec a (((bd.onTuner T).map fun o => o.openAt).filter fun x => decide (x ≤ i))
    generalize greatest a _ = j at hlast hle hmax
    simp only [List.mem_filter, List.mem_map, decide_eq_true_eq] at hlast hmax
    have hji : j ≤ i := by
      rcases hlast with rfl | ⟨-, h⟩
      · exact ha
      · exact h
    refine isFree_of_covers (j := j) (fun o ho hcover => ?_) ?_
    · obtain ⟨hopen, hclose⟩ := (covers_iff o i).mp hcover
      exact (covers_iff o j).mpr ⟨hmax _ ⟨⟨o, ho, rfl⟩, hopen⟩, fun c hc => Nat.lt_of_le_of_lt hji (hclose c hc)⟩
    · rcases hlast with rfl | ⟨⟨o, ho, rfl⟩, -⟩
      · exact hfirst
      · rcases hle.eq_or_lt with heq | hlt
        · rw [← heq]; exact hfirst
        · exact hopenings o ho hlt (by omega)
  · intro hfree
    by_cases hempty : b ≤ a
    · exact .inl hempty
    · exact .inr ⟨hfree a (Nat.le_refl a) (by omega), fun o _ hopen hclose => hfree o.openAt hopen.le hclose⟩

/-- A window grows downwards over instants that no occupant closes in: each of them is as free as the first. -/
theorem fits_down {a c C : Nat} (hlt : a < C) (hfits : bd.fits T key a C = true)
    (hno : ∀ o ∈ bd.onTuner T, ∀ x ∈ o.closeAt.toList, x ≤ a → x ≤ c) : bd.fits T key c C = true := by
  rw [fits_iff_free] at hfits ⊢
  intro i hc hC
  by_cases hi : a ≤ i
  · exact hfits i hi hC
  · refine isFree_of_covers (fun o ho hcover => ?_) (hfits a (Nat.le_refl a) hlt)
    obtain ⟨hopen, hclose⟩ := (covers_iff o i).mp hcover
    refine (covers_iff o a).mpr ⟨by omega, fun x hx => ?_⟩
    have hafter := hclose x hx
    have hbefore := hno o ho x hx
    omega

/-- A window grows upwards over instants that no occupant opens in: each of them is as free as the last. -/
theorem fits_up {E b c : Nat} (hlt : E < b) (hfits : bd.fits T key E b = true)
    (hno : ∀ o ∈ bd.onTuner T, b ≤ o.openAt → c ≤ o.openAt) : bd.fits T key E c = true := by
  rw [fits_iff_free] at hfits ⊢
  intro i hE hc
  by_cases hi : i < b
  · exact hfits i hE hi
  · refine isFree_of_covers (fun o ho hcover => ?_) (hfits (b - 1) (by omega) (by omega))
    obtain ⟨hopen, hclose⟩ := (covers_iff o i).mp hcover
    refine (covers_iff o (b - 1)).mpr ⟨?_, fun x hx => ?_⟩
    · have hfirst := hno o ho
      omega
    · have hafter := hclose x hx
      omega

theorem fits_empty {a b : Nat} (h : b ≤ a) : bd.fits T key a b = true := fits_iff_free.mpr fun i ha hb => by omega

/-! ### The trimmed windows (O38) -/

theorem trimmedOpen_fits (P C : Nat) : bd.fits T key (bd.trimmedOpen T key P C) C = true := by
  obtain ⟨hmem, -, -⟩ := least_spec C
    ((P :: (bd.onTuner T).filterMap fun o => o.closeAt).filter fun a =>
      decide (P ≤ a) && decide (a ≤ C) && bd.fits T key a C)
  rcases hmem with heq | hmem
  · exact fits_empty heq.ge
  · simp only [List.mem_filter, Bool.and_eq_true] at hmem
    exact hmem.2.2

theorem trimmedClose_fits (E Q : Nat) : bd.fits T key E (bd.trimmedClose T key E Q) = true := by
  obtain ⟨hmem, -, -⟩ := greatest_spec E
    ((Q :: (bd.onTuner T).map fun o => o.openAt).filter fun b =>
      decide (E ≤ b) && decide (b ≤ Q) && bd.fits T key E b)
  rcases hmem with heq | hmem
  · exact fits_empty heq.le
  · simp only [List.mem_filter, Bool.and_eq_true] at hmem
    exact hmem.2.2

/-- The trimmed open is at or before each candidate from which the window fits. -/
theorem trimmedOpen_le_candidate {P C c : Nat} (hc : c = P ∨ ∃ o ∈ bd.onTuner T, o.closeAt = some c) (hP : P ≤ c) (hC : c ≤ C)
    (hfits : bd.fits T key c C = true) : bd.trimmedOpen T key P C ≤ c := by
  obtain ⟨-, -, hleast⟩ := least_spec C
    ((P :: (bd.onTuner T).filterMap fun o => o.closeAt).filter fun a =>
      decide (P ≤ a) && decide (a ≤ C) && bd.fits T key a C)
  exact hleast c (by simp [List.mem_filter, hc, hP, hC, hfits])

theorem candidate_le_trimmedClose {E Q c : Nat} (hc : c = Q ∨ ∃ o ∈ bd.onTuner T, o.openAt = c) (hE : E ≤ c) (hQ : c ≤ Q)
    (hfits : bd.fits T key E c = true) : c ≤ bd.trimmedClose T key E Q := by
  obtain ⟨-, -, hgreatest⟩ := greatest_spec E
    ((Q :: (bd.onTuner T).map fun o => o.openAt).filter fun b =>
      decide (E ≤ b) && decide (b ≤ Q) && bd.fits T key E b)
  exact hgreatest c (by simp [List.mem_filter, hc, hE, hQ, hfits])

/-- The last candidate at or before an instant: from it the window fits as well, so that the trimmed open is no later. -/
theorem trimmedOpen_le {P C a : Nat} (hP : P ≤ a) (hC : a ≤ C) (hfits : bd.fits T key a C = true) :
    bd.trimmedOpen T key P C ≤ a := by
  rcases hC.eq_or_lt with rfl | hlt
  · exact (trimmedOpen_bounds bd T key hP).2
  · obtain ⟨hlast, hle, hmax⟩ :=
      greatest_spec P (((bd.onTuner T).filterMap fun o => o.closeAt).filter fun x => decide (x ≤ a))
    generalize greatest P _ = c at hlast hle hmax
    simp only [List.mem_filter, List.mem_filterMap, decide_eq_true_eq] at hlast hmax
    have hca : c ≤ a := by
      rcases hlast with rfl | ⟨-, h⟩
      · exact hP
      · exact h
    refine (trimmedOpen_le_candidate (hlast.imp_right fun h => h.1) hle (hca.trans hC) ?_).trans hca
    exact fits_down hlt hfits fun o ho x hx hxa => hmax x ⟨⟨o, ho, Option.mem_toList.mp hx⟩, hxa⟩

/-- The next candidate at or after an instant: up to it the window fits as well, so that the trimmed close is no earlier. -/
theorem le_trimmedClose {E Q b : Nat} (hE : E ≤ b) (hQ : b ≤ Q) (hfits : bd.fits T key E b = true) :
    b ≤ bd.trimmedClose T key E Q := by
  rcases hE.eq_or_lt with rfl | hlt
  · exact (trimmedClose_bounds bd T key hQ).1
  · obtain ⟨hnext, hle, hmin⟩ := least_spec Q (((bd.onTuner T).map fun o => o.openAt).filter fun x => decide (b ≤ x))
    generalize least Q _ = c at hnext hle hmin
    simp only [List.mem_filter, List.mem_map, decide_eq_true_eq] at hnext hmin
    have hbc : b ≤ c := by
      rcases hnext with rfl | ⟨-, h⟩
      · exact hQ
      · exact h
    refine hbc.trans (candidate_le_trimmedClose (hnext.imp_right fun h => h.1) (hE.trans hbc) hle ?_)
    exact fits_up hlt hfits fun o ho hbo => hmin _ ⟨⟨o, ho, rfl⟩, hbo⟩

end board

/-- Settles O37: the instants that the definition looks at decide all the others. -/
theorem fitIsInstantByInstant : Obligations.FitIsInstantByInstant := by
  intro bd T key a b
  refine ⟨?_, fits_empty⟩
  rw [fits_iff_free]
  simp only [isFree_iff]

/-- Settles O38: the candidates that the definition looks at hold the extreme instants. -/
theorem trimKeepsTheMost : Obligations.TrimKeepsTheMost := by
  intro bd T key
  refine ⟨fun P C h => ?_, fun E Q h => ?_⟩
  · obtain ⟨hlow, hhigh⟩ := trimmedOpen_bounds bd T key h
    exact ⟨hlow, hhigh, trimmedOpen_fits P C, fun a hP hC hfits => trimmedOpen_le hP hC hfits⟩
  · obtain ⟨hlow, hhigh⟩ := trimmedClose_bounds bd T key h
    exact ⟨hlow, hhigh, trimmedClose_fits E Q, fun b hE hQ hfits => le_trimmedClose hE hQ hfits⟩

end Sys2Proof.Machine
end

section
/-! PROOF. The evaluation of a booking by a step (O39): the order of its tuners, a showing tried, and the outcome. -/

namespace Sys2Proof.Machine

/-! ### The order of the tuners (R110) -/

theorem mem_order (e : EligibleSet) (T : Tuner) : T ∈ e.order ↔ e.has T = true := by
  cases T <;> simp [EligibleSet.order]

theorem order_pairwise (e : EligibleSet) : e.order.Pairwise fun T U => T = .tuner0 ∧ U = .tuner1 :=
  List.Pairwise.filter _ (by simp)

/-- The order holds the eligible tuners, those that carry the key before the others. -/
theorem tunerOrder_perm (bd : Board) (w : Tried) : (bd.tunerOrder w).Perm w.eligible.order := List.filter_append_perm _ _

theorem mem_tunerOrder (bd : Board) (w : Tried) (T : Tuner) : T ∈ bd.tunerOrder w ↔ w.eligible.has T = true := by
  rw [(tunerOrder_perm bd w).mem_iff, mem_order]

theorem tunerOrder_nodup (bd : Board) (w : Tried) : (bd.tunerOrder w).Nodup := by
  have horder : w.eligible.order.Nodup := (order_pairwise w.eligible).imp fun ⟨hT, hU⟩ => by rw [hT, hU]; nofun
  exact (tunerOrder_perm bd w).nodup_iff.mpr horder

/-- The tuners that carry the key come first, and tuner 0 comes before tuner 1 in each group. -/
theorem tunerOrder_pairwise (bd : Board) (w : Tried) :
    (bd.tunerOrder w).Pairwise fun T U =>
      (CarriesTheKey bd w U → CarriesTheKey bd w T) ∧
        ((CarriesTheKey bd w T ↔ CarriesTheKey bd w U) → T = .tuner0 ∧ U = .tuner1) := by
  simp only [← carriesTheKey_iff]
  refine List.pairwise_append.mpr ⟨?_, ?_, fun T hT U hU => ?_⟩
  · refine (List.Pairwise.filter _ (order_pairwise w.eligible)).imp_of_mem fun hT _ hTU => ⟨fun _ => ?_, fun _ => hTU⟩
    exact (List.mem_filter.mp hT).2
  · refine (List.Pairwise.filter _ (order_pairwise w.eligible)).imp_of_mem fun _ hU hTU => ⟨fun hc => ?_, fun _ => hTU⟩
    simp [List.mem_filter, hc] at hU
  · have hcarries := (List.mem_filter.mp hT).2
    have hnot := (List.mem_filter.mp hU).2
    simp only [Bool.not_eq_true'] at hnot
    refine ⟨fun _ => hcarries, fun hiff => ?_⟩
    rw [hiff.mp hcarries] at hnot
    cases hnot

/-! ### A full placement, and a trimmed one (R111 to R113) -/

theorem place_full {bd : Board} {w : Tried} {before after : List Tuner} {T : Tuner}
    (horder : bd.tunerOrder w = before ++ T :: after) (hfits : bd.fits T w.key w.paddedOpen w.paddedClose = true)
    (hbefore : ∀ U ∈ before, bd.fits U w.key w.paddedOpen w.paddedClose = false) :
    bd.place w = .placed true T w.paddedOpen w.paddedClose w.key := by
  have hfind : (bd.tunerOrder w).find? (fun t => bd.fits t w.key w.paddedOpen w.paddedClose) = some T := by
    rw [horder, List.find?_append, List.find?_eq_none.mpr (by simpa using hbefore), Option.none_or]
    exact List.find?_cons_of_pos hfits
  simp only [Board.place, hfind]

theorem place_notFull {bd : Board} {w : Tried}
    (hno : ∀ U ∈ bd.tunerOrder w, bd.fits U w.key w.paddedOpen w.paddedClose = false) :
    bd.place w = bd.placeTrimmed w (bd.tunerOrder w) := by
  have hfind : (bd.tunerOrder w).find? (fun t => bd.fits t w.key w.paddedOpen w.paddedClose) = none :=
    List.find?_eq_none.mpr (by simpa using hno)
  simp only [Board.place, hfind]

theorem placeTrimmed_notFitted {bd : Board} {w : Tried} {order : List Tuner}
    (h : w.coreClose ≤ w.coreOpen ∨ ∀ U ∈ order, bd.fits U w.key w.coreOpen w.coreClose = false) :
    bd.placeTrimmed w order = .notFitted := by
  unfold Board.placeTrimmed
  rcases h with hempty | hno
  · exact if_pos hempty
  · have hnone : longest (bd.trimmedWindows w order) = none := by
      rw [longest_none, Board.trimmedWindows, List.map_eq_nil_iff, List.filter_eq_nil_iff]
      simpa using hno
    simp only [hnone, ite_self]

/-- A member of a filtered and mapped list stands in the list itself, with the members around it that passed. -/
theorem split_of_filter_map {α β : Type} {p : α → Bool} {f : α → β} {xs : List α} {b a : List β} {y : β}
    (h : (xs.filter p).map f = b ++ y :: a) :
    ∃ before x after, xs = before ++ x :: after ∧ p x = true ∧ f x = y ∧
      (∀ u ∈ before, p u = true → f u ∈ b) ∧ ∀ u ∈ after, p u = true → f u ∈ a := by
  obtain ⟨l1, l2, hfilter, rfl, hl2⟩ := List.map_eq_append_iff.mp h
  obtain ⟨x, l3, rfl, rfl, rfl⟩ := List.map_eq_cons_iff.mp hl2
  obtain ⟨o1, o2, rfl, rfl, ho2⟩ := List.filter_eq_append_iff.mp hfilter
  obtain ⟨p1, p2, rfl, hskip, hx, rfl⟩ := List.filter_eq_cons_iff.mp ho2
  refine ⟨o1 ++ p1, x, p2, by simp, hx, rfl, fun u hu hpu => ?_, fun u hu hpu => ?_⟩
  · rcases List.mem_append.mp hu with hu | hu
    · exact List.mem_map_of_mem (List.mem_filter.mpr ⟨hu, hpu⟩)
    · exact absurd hpu (hskip u hu)
  · exact List.mem_map_of_mem (List.mem_filter.mpr ⟨hu, hpu⟩)

theorem placeTrimmed_placed {bd : Board} {w : Tried} {order : List Tuner} (hcore : w.coreOpen < w.coreClose)
    (hsome : ∃ U ∈ order, bd.fits U w.key w.coreOpen w.coreClose = true) :
    ∃ before T after, order = before ++ T :: after ∧ bd.fits T w.key w.coreOpen w.coreClose = true ∧
      bd.placeTrimmed w order =
        .placed false T (bd.trimmedOpen T w.key w.paddedOpen w.coreOpen)
          (bd.trimmedClose T w.key w.coreClose w.paddedClose) w.key ∧
      ∀ U, bd.fits U w.key w.coreOpen w.coreClose = true →
        (U ∈ before →
          bd.trimmedClose U w.key w.coreClose w.paddedClose - bd.trimmedOpen U w.key w.paddedOpen w.coreOpen <
            bd.trimmedClose T w.key w.coreClose w.paddedClose - bd.trimmedOpen T w.key w.paddedOpen w.coreOpen) ∧
        (U ∈ after →
          bd.trimmedClose U w.key w.coreClose w.paddedClose - bd.trimmedOpen U w.key w.paddedOpen w.coreOpen ≤
            bd.trimmedClose T w.key w.coreClose w.paddedClose - bd.trimmedOpen T w.key w.paddedOpen w.coreOpen) := by
  have hwindows : longest (bd.trimmedWindows w order) ≠ none := by
    obtain ⟨U, hU, hfits⟩ := hsome
    rw [Ne, longest_none, Board.trimmedWindows, List.map_eq_nil_iff, List.filter_eq_nil_iff]
    exact fun hno => hno U hU hfits
  obtain ⟨y, hy⟩ := Option.ne_none_iff_exists'.mp hwindows
  obtain ⟨b, a, hsplit, hlonger, hasLong⟩ := longest_spec _ y hy
  obtain ⟨before, T, after, horder, hfits, rfl, hbefore, hafter⟩ := split_of_filter_map hsplit
  refine ⟨before, T, after, horder, hfits, ?_, fun U hU => ⟨fun hmem => ?_, fun hmem => ?_⟩⟩
  · simp only [Board.placeTrimmed, if_neg (Nat.not_le.mpr hcore), hy]
  · exact hlonger _ (hbefore U hmem hU)
  · exact hasLong _ (hafter U hmem hU)

/-! ### A showing tried (R109, R115) -/

section tried
variable {bd : Board} {v : Showing} {prePad postPad : Nat} {r : Route}

theorem tryShowing_noTuner (h : r.eligible.order = []) : bd.tryShowing v prePad postPad (some r) = .unreachable := by
  simp [Board.tryShowing, h]

theorem tryShowing_lapsed (h : r.eligible.order ≠ [])
    (hempty : (triedShowing bd.passTime v prePad postPad r).paddedClose ≤
      (triedShowing bd.passTime v prePad postPad r).paddedOpen) :
    bd.tryShowing v prePad postPad (some r) = .lapsed := by
  simp only [Board.tryShowing, List.isEmpty_iff, if_neg h, if_pos hempty]

theorem tryShowing_place (h : r.eligible.order ≠ [])
    (hwide : (triedShowing bd.passTime v prePad postPad r).paddedOpen <
      (triedShowing bd.passTime v prePad postPad r).paddedClose) :
    bd.tryShowing v prePad postPad (some r) = bd.place (triedShowing bd.passTime v prePad postPad r) := by
  simp only [Board.tryShowing, List.isEmpty_iff, if_neg h, if_neg (Nat.not_le.mpr hwide)]

end tried

/-! ### The outcome of a booking (R114, R115) -/

section outcome
variable {bd : Board} {b : Booking} {route : Nat → Option Route}

theorem evaluate_primary {full : Bool} {T : Tuner} {x y : Nat} {key : MuxKey}
    (h : bd.tryShowing b.primary b.prePad b.postPad (route b.primary.channel) = .placed full T x y key) :
    bd.evaluate b route = (.placed ⟨if full then .placed else .trimmed, T, x, y⟩, some key) := by
  simp only [Board.evaluate, h]

theorem evaluate_unplaced
    (h : ∀ full T x y key,
      bd.tryShowing b.primary b.prePad b.postPad (route b.primary.channel) ≠ .placed full T x y key) :
    bd.evaluate b route =
      alternativeVerdict (bd.tryShowing b.primary b.prePad b.postPad (route b.primary.channel))
        (b.alternative.map fun v => bd.tryShowing v b.prePad b.postPad (route v.channel)) := by
  unfold Board.evaluate
  cases hp : bd.tryShowing b.primary b.prePad b.postPad (route b.primary.channel) with
  | placed full T x y key => exact absurd hp (h full T x y key)
  | notFitted | unreachable | lapsed => rfl

theorem alternativeVerdict_unplaced {p : Trial} {a : Option Trial} (h : ∀ full T x y key, a ≠ some (.placed full T x y key)) :
    alternativeVerdict p a = (unplacedVerdict p a, none) := by
  cases a with
  | none => rfl
  | some trial =>
    cases trial with
    | placed full T x y key => exact absurd rfl (h full T x y key)
    | notFitted | unreachable | lapsed => rfl

end outcome

/-- Settles O39: the trial of a showing, the order of the tuners, and the outcome from both showings. -/
theorem evaluationFollowsTheTable : Obligations.EvaluationFollowsTheTable := by
  refine ⟨fun bd v prePad postPad => rfl, ?trial, mem_tunerOrder,
    fun bd w => ⟨tunerOrder_nodup bd w, tunerOrder_pairwise bd w⟩, ?outcome⟩
  case trial =>
    intro bd v prePad postPad r w trial hw htrial
    obtain rfl : w = triedShowing bd.passTime v prePad postPad r := hw
    subst htrial
    refine ⟨tryShowing_noTuner, tryShowing_lapsed, fun htuners hwide => ?_⟩
    rw [tryShowing_place htuners hwide]
    refine ⟨fun before T after => place_full, fun hno => ?_⟩
    rw [place_notFull hno]
    refine ⟨placeTrimmed_notFitted, fun hcore hsome => ?_⟩
    obtain ⟨before, T, after, horder, hfits, hplaced, hlongest⟩ := placeTrimmed_placed hcore hsome
    exact ⟨before, T, after, _, _, horder, hfits, rfl, rfl, hplaced, hlongest⟩
  case outcome =>
    intro bd b route p a out hp ha hout
    subst hp ha hout
    refine ⟨fun T x y key => evaluate_primary, fun T x y key => evaluate_primary, fun hprimary => ?_⟩
    rw [evaluate_unplaced hprimary]
    refine ⟨fun full T x y key halternative => by rw [halternative]; rfl, fun halternative => ?_⟩
    rw [alternativeVerdict_unplaced halternative]
    refine ⟨rfl, fun hclash => if_pos hclash, fun hp ha => ?_, fun hp ha => ?_⟩
    · simp [unplacedVerdict, hp, ha]
    · simp [unplacedVerdict, hp, ha]

end Sys2Proof.Machine
end

section
/-! PROOF. READ_PLAN (O41): the layout of an item, what is listed, and the order of the list. -/

namespace Sys2Proof.Machine

/-! ### An item of a plan (section 12.8) -/

theorem planItemBytes_fields (i : PlanItem) :
    fieldAt (planItemBytes i) 0 1 =
        i.handle.isNone.toNat + 2 * i.openAt.isSome.toNat + 4 * i.closeAt.isSome.toNat + 8 * i.key.isSome.toNat ∧
      fieldAt (planItemBytes i) 1 1 = (i.handle.getD ⟨0, 0⟩).slot % 256 ∧
      fieldAt (planItemBytes i) 2 1 = (i.handle.getD ⟨0, 0⟩).tag % 256 ∧
      fieldAt (planItemBytes i) 3 4 = i.openAt.getD 0 % 4294967296 ∧
      fieldAt (planItemBytes i) 7 4 = i.closeAt.getD 0 % 4294967296 ∧
      fieldAt (planItemBytes i) 11 2 = optionalKeyCode i.key % 65536 ∧ fieldAt (planItemBytes i) 13 1 = i.outcome % 256 := by
  have hflags (a b c d : Bool) :
      fieldAt (flagByte [a, b, c, d]) 0 1 = a.toNat + 2 * b.toNat + 4 * c.toNat + 8 * d.toNat := by
    rw [fieldAt_flagByte _ (by simp)]
    simp
    omega
  simp [planItemBytes, hflags, fieldAt_handle_slot, fieldAt_handle_tag, fieldAt_fourBytes, fieldAt_twoBytes,
    fieldAt_oneByte]

/-- The item of a hold carries no handle: both bytes are zero. -/
theorem planItemBytes_noHandle {i : PlanItem} (h : i.handle = none) : fieldAt (planItemBytes i) 1 2 = 0 := by
  simp [planItemBytes, h, handleBytes, oneByte, fieldAt]

/-! ### The order of a list (R125) -/

def slotListed (x : Listed) : Nat := (x.item.handle.map fun h => h.slot).getD 0

/-- The first comes before the second: the earlier open, then the lower slot. -/
def ListedAhead (x y : Listed) : Prop := x.openAt < y.openAt ∨ (x.openAt = y.openAt ∧ slotListed x < slotListed y)

/-- An insertion of the highest slot yet keeps the order. -/
theorem insertListed_ahead {x : Listed} {ys : List Listed} (hys : ys.Pairwise ListedAhead)
    (hslot : ∀ y ∈ ys, slotListed y < slotListed x) : (insertListed x ys).Pairwise ListedAhead := by
  induction ys with
  | nil => exact List.pairwise_singleton _ _
  | cons y ys ih =>
    obtain ⟨hfirst, hrest⟩ := List.pairwise_cons.mp hys
    unfold insertListed
    split
    · next hle =>
      refine List.pairwise_cons.mpr ⟨fun z hz => ?_, ih hrest fun z hz => hslot z (List.mem_cons_of_mem y hz)⟩
      rcases List.mem_cons.mp ((insertListed_perm x ys).mem_iff.mp hz) with rfl | hz
      · exact hle.lt_or_eq.imp_right fun heq => ⟨heq, hslot y List.mem_cons_self⟩
      · exact hfirst z hz
    · next hlt =>
      refine List.pairwise_cons.mpr ⟨fun z hz => Or.inl ?_, hys⟩
      rcases List.mem_cons.mp hz with rfl | hz
      · exact Nat.not_le.mp hlt
      · rcases hfirst z hz with h | ⟨h, -⟩ <;> omega

theorem fold_ahead {xs acc : List Listed} (hacc : acc.Pairwise ListedAhead)
    (hxs : xs.Pairwise fun x y => slotListed x < slotListed y) (hlow : ∀ y ∈ acc, ∀ x ∈ xs, slotListed y < slotListed x) :
    (xs.foldl (fun acc x => insertListed x acc) acc).Pairwise ListedAhead := by
  induction xs generalizing acc with
  | nil => exact hacc
  | cons x xs ih =>
    obtain ⟨hfirst, hrest⟩ := List.pairwise_cons.mp hxs
    refine ih (insertListed_ahead hacc fun y hy => hlow y hy x List.mem_cons_self) hrest fun y hy z hz => ?_
    rcases List.mem_cons.mp ((insertListed_perm x acc).mem_iff.mp hy) with rfl | hy
    · exact hfirst z hz
    · exact hlow y hy z (List.mem_cons_of_mem x hz)

theorem sortListed_perm (xs : List Listed) : (sortListed xs).Perm (xs.map fun x => x.item) := by
  have hperm := fold_perm xs []
  rw [List.append_nil] at hperm
  exact hperm.map _

/-- Items given in slot order are listed by open, those of one open by slot. -/
theorem sortListed_pairwise {xs : List Listed} (hslots : xs.Pairwise fun x y => slotListed x < slotListed y)
    (hopens : ∀ x ∈ xs, x.item.openAt = some x.openAt) : (sortListed xs).Pairwise ListedBefore := by
  refine List.pairwise_map.mpr ((fold_ahead List.Pairwise.nil hslots (by simp)).imp_of_mem fun {x y} hx hy hahead => ?_)
  have hmem {z : Listed} (hz : z ∈ xs.foldl (fun acc x => insertListed x acc) []) : z.item.openAt = some z.openAt := by
    refine hopens z ?_
    rw [← List.append_nil xs]
    exact (fold_perm xs []).mem_iff.mp hz
  unfold ListedBefore
  rw [hmem hx, hmem hy]
  exact hahead.imp_right fun ⟨hopen, hslot⟩ => ⟨congrArg some hopen, hslot⟩

/-! ### What is listed -/

theorem occupied_ascending (s : State) : (occupied s).Pairwise fun x y => x.1.slot < y.1.slot :=
  List.pairwise_map.mp (occupied_sorted s)

/-- Items that take the slots of the bookings they are made of are listed in their order. -/
theorem sortListed_filterMap {es : List (Handle × Booking)} {f : Handle × Booking → Option Listed}
    (hes : es.Pairwise fun x y => x.1.slot < y.1.slot)
    (hf : ∀ e x, f e = some x → slotListed x = e.1.slot ∧ x.item.openAt = some x.openAt) :
    (sortListed (es.filterMap f)).Pairwise ListedBefore := by
  refine sortListed_pairwise (List.pairwise_filterMap.mpr (hes.imp fun {e e'} hlt x hx y hy => ?_)) fun x hx => ?_
  · rw [(hf e x hx).1, (hf e' y hy).1]
    exact hlt
  · obtain ⟨e, -, he⟩ := List.mem_filterMap.mp hx
    exact (hf e x he).2

theorem runningItems_pairwise (s : State) (t : Tuner) : (sortListed (runningItems s t)).Pairwise ListedBefore := by
  refine sortListed_filterMap ((occupied_ascending s).filter _) fun e x hx => ?_
  obtain ⟨r, -, rfl⟩ := Option.map_eq_some_iff.mp hx
  exact ⟨rfl, rfl⟩

theorem placementItems_pairwise (s : State) (t : Tuner) (fromTime : Nat) :
    (sortListed (placementItems s t fromTime)).Pairwise ListedBefore := by
  refine sortListed_filterMap (occupied_ascending s) fun e x hx => ?_
  split at hx
  · split at hx
    · obtain rfl := Option.some.inj hx
      exact ⟨rfl, rfl⟩
    · cases hx
  · cases hx

theorem runningItems_items (s : State) (t : Tuner) :
    ((runningItems s t).map fun x => x.item) =
      (occupied s).flatMap fun e =>
        if e.2.state = .starting ∨ e.2.state = .recording then
          (e.2.running.toList.filter fun r => decide (r.tuner = t)).map fun r =>
            ⟨some e.1, some r.actualOpen, some r.closePoint, some r.key, 7⟩
        else [] := by
  rw [runningItems, runningOn, List.filterMap_filter, List.map_filterMap, List.filterMap_eq_flatMap_toList]
  refine congrArg (fun f => (occupied s).flatMap f) (funext fun e => ?_)
  have hruns : runsOn t e.2 = true ↔
      (e.2.state = .starting ∨ e.2.state = .recording) ∧ ∃ r, e.2.running = some r ∧ r.tuner = t := by
    cases hr : e.2.running <;> cases hst : e.2.state <;> simp [runsOn, hr, hst, BookingState.isRunning]
  by_cases hst : e.2.state = .starting ∨ e.2.state = .recording
  · cases hr : e.2.running with
    | none => simp [hst]
    | some r => by_cases ht : r.tuner = t <;> simp [hruns, hst, hr, ht, runningOutcomeCode]
  · simp [hruns, hst]

theorem placementItems_items (s : State) (t : Tuner) (fromTime : Nat) :
    ((placementItems s t fromTime).map fun x => x.item) =
      (occupied s).flatMap fun e =>
        ((currentPlacement e.2).toList.filter fun p => decide (p.tuner = t ∧ fromTime ≤ p.openAt)).map fun p =>
          ⟨some e.1, some p.openAt, some p.closeAt,
            ((showingNamed e.2 p.kind.used).bind fun v => resolve s v.channel).map fun r => r.key,
            placedCode p.kind⟩ := by
  rw [placementItems, List.map_filterMap, List.filterMap_eq_flatMap_toList]
  refine congrArg (fun f => (occupied s).flatMap f) (funext fun e => ?_)
  cases currentPlacement e.2 with
  | none => rfl
  | some p => by_cases hp : p.tuner = t ∧ fromTime ≤ p.openAt <;> simp [hp, placementKey]

theorem holdItem_eq (s : State) (t : Tuner) :
    holdItem s t = (firmHold s t).toList.map fun h => ⟨none, h.takenAt, none, some h.key, 0⟩ := by
  unfold holdItem
  cases firmHold s t <;> rfl

theorem planBytes_eq (s : State) (items : List PlanItem) :
    planBytes s items =
      twoBytes s.planner.revision ++ [if s.planner.stale then 0x01#8 else 0x00#8] ++
        [if 6 < items.length then 0x01#8 else 0x00#8] ++ [BitVec.ofNat 8 (min 6 items.length)] ++
        (items.take 6).flatMap planItemBytes := by
  simp only [planBytes, boolByte_eq, decide_eq_true_eq, Config.planPlaces, List.length_take, oneByte]

theorem tunerOf_outside {n : Nat} (h : 1 < n) : tunerOf n = none := by
  match n with
  | 0 | 1 => omega
  | n + 2 => rfl

/-- Settles O41: the hold, the running bookings and the placements of a tuner, each in its order. -/
theorem planListsTheTuner : Obligations.PlanListsTheTuner := by
  refine ⟨fun i img himg => ?item, fun s fromTime d T ht => ?listed, fun s tuner fromTime d ht hout => ?refused⟩
  case item =>
    subst himg
    obtain ⟨hflags, hslot, htag, hopen, hclose, hkey, houtcome⟩ := planItemBytes_fields i
    refine ⟨length_planItemBytes i, hflags, fun h hh => ?_, planItemBytes_noHandle, hopen, hclose, fun k hk => ?_,
      fun hnone => ?_, houtcome⟩
    · rw [Option.mem_toList.mp hh] at hslot htag
      exact ⟨hslot, htag⟩
    · rw [hkey, Option.mem_toList.mp hk, optionalKeyCode, keyCode_eq]
      exact Nat.mod_eq_of_lt (keyValue_lt k)
    · rw [hkey, hnone]
      rfl
  case listed =>
    have htake : takeReadPlan s (tunerCode T) fromTime = accept s false (planBytes s (planItems s T fromTime)) := by
      simp only [takeReadPlan, tunerOf_code]
    rw [exec_readPlan ht, htake, planBytes_eq]
    obtain ⟨t, hnext, hstate, hreply⟩ := read_next s (.readPlan (tunerCode T) fromTime) d false
      (twoBytes s.planner.revision ++ [if s.planner.stale then 0x01#8 else 0x00#8] ++
        [if 6 < (planItems s T fromTime).length then 0x01#8 else 0x00#8] ++
        [BitVec.ofNat 8 (min 6 (planItems s T fromTime).length)] ++
        ((planItems s T fromTime).take 6).flatMap planItemBytes)
    refine ⟨t, sortListed (runningItems s T), sortListed (placementItems s T fromTime), planItems s T fromTime, hnext, hstate,
      ?_, runningItems_pairwise s T, ?_, placementItems_pairwise s T fromTime, ?_, hreply⟩
    · rw [← runningItems_items]
      exact sortListed_perm _
    · rw [← placementItems_items]
      exact sortListed_perm _
    · rw [planItems, holdItem_eq]
  case refused =>
    rw [exec_readPlan ht]
    simp only [takeReadPlan, tunerOf_outside hout]
    exact refused_next s (.readPlan tuner fromTime) d .badValue

end Sys2Proof.Machine
end
